-- ==== Sys2Proof/Word.lean ====
section
/-! DEFINITION. The words of the block: bytes, ticks, and the name of one of its two FIFOs. -/

namespace Sys2Proof

/-- A byte, `u8` (00_scope.md section 5). -/
abbrev Byte := BitVec 8

/-- A tick count, `u32` (R6: `TICK_W = 32`). -/
abbrev Tick := BitVec 32

/-- One of the two FIFOs (R2, R16): `A` holds analog bytes, `E` holds edge records. -/
inductive Fifo where
  | A
  | E
  deriving DecidableEq, Repr

end Sys2Proof
end

