-- ==== Sys2Proof/Config.lean ====
section
/-! DEFINITION. What a build of the block fixes (R6, R7, R8) and the one value the spec leaves free. -/

namespace Sys2Proof

/-- `EDGE_SLICE`, the edge bytes of one edge packet, one of 20 and 5 (R8, C2). -/
inductive EdgeSlice where
  | twenty
  | five
  deriving DecidableEq, Repr

/-- The number of bytes of an edge slice (R8). -/
def edgeSliceBytes : EdgeSlice → Nat
  | .twenty => 20
  | .five => 5

/-- `BUSY_PAYLOAD`, what a busy packet carries (R8, D18). -/
inductive BusyPayload where
  | analogPartial
  | nothing
  deriving DecidableEq, Repr

/-- The parameters of a build (R7, R8). DESIGN CHOICE (log 2, log 3): the spec's sizes that are at least 1 are
held as the index of their last byte, so that every value of this type is a build the spec allows. -/
structure Config where
  /-- `CAP_A - 1`, the last index of `buf_A`. -/
  lastA : Nat
  /-- `CAP_E - 1`, the last index of `buf_E`. -/
  lastE : Nat
  /-- `ANALOG_CHUNK - 1`, the position of the last byte of a chunk. -/
  lastChunk : Nat
  /-- `N_SAMPLES`; no rule reads it. -/
  nSamples : Nat
  /-- `BURST_TIMER_ID`, opaque. -/
  burstTimerId : Nat
  /-- `EDGE_PIN_ID`, opaque; it names the pin whose value reaches the block as an operand of EDGE. -/
  edgePinId : Nat
  /-- `LEN_W`, the width of the byte count of ENQ and DEQ. -/
  lenW : Nat
  /-- `FILL`, the padding byte. -/
  fill : Byte
  edgeSlice : EdgeSlice
  busyPayload : BusyPayload
  deriving DecidableEq, Repr

/-- `CAP_X`, the capacity of FIFO `X` in bytes, at least 1 (R7, D7). -/
def Config.cap (c : Config) : Fifo → Nat
  | .A => c.lastA + 1
  | .E => c.lastE + 1

/-- `ANALOG_CHUNK`, at least 1 (R7, D26). -/
def Config.analogChunk (c : Config) : Nat := c.lastChunk + 1

/-- `EDGE_SLICE` as a number of bytes (R8). -/
def Config.slice (c : Config) : Nat := edgeSliceBytes c.edgeSlice

/-- REF, the reference configuration of 95_test_vectors.md section 0. -/
def Config.ref : Config where
  lastA := 63
  lastE := 39
  lastChunk := 19
  nSamples := 10
  burstTimerId := 1
  edgePinId := 0
  lenW := 8
  fill := 0xFF
  edgeSlice := .twenty
  busyPayload := .analogPartial

/-- The bytes `tx_pkt` holds after a power-on reset: free, with no body (R29, R150, I10; log 5). The first argument
numbers the draw, the second the byte of the packet. -/
opaque Config.freeTxByte : Nat → Nat → Byte

end Sys2Proof
end

