-- ==== Sys2Proof/Syntax.lean ====
section
/-! DEFINITION. The transactions of the block: one constructor per row of spec/opcode_table.json (R55, R56, R57, R58, R62). -/

namespace Sys2Proof

/-- A transaction. Every one is a single atomic step (R47). -/
inductive Instr where
  /-- RST, the power-on reset (R150). -/
  | rst
  /-- ADC_DONE with its chunk (R83). -/
  | adcDone (block : List Byte)
  /-- EDGE with the tick and the pin sampled in the step (R85). -/
  | edge (tick : Tick) (pin : Bool)
  /-- CMD_RX with its 9-byte frame and the tick sampled in the step (R92). -/
  | cmdRx (frame : List Byte) (tick : Tick)
  /-- TX_OPP with the converter's report and the link's answer (R114). -/
  | txOpp (adcBusy linkOk : Bool)
  /-- TX_DONE (R122). -/
  | txDone
  /-- CLR on the FIFO port (R72). -/
  | clr (x : Fifo)
  /-- ENQ of the bytes `data`; its count `n` is their number (R63, R73). -/
  | enq (x : Fifo) (data : List Byte)
  /-- DEQ of up to `n` bytes (R74). -/
  | deq (x : Fifo) (n : Nat)
  /-- EMPTY (R75). -/
  | empty (x : Fifo)
  /-- FULL (R76). -/
  | full (x : Fifo)
  /-- LEN (R77). -/
  | len (x : Fifo)
  /-- The command frame `START____` received at `tick` (R93). -/
  | start (tick : Tick)
  /-- The command frame `STOP_____` (R94); the tick sampled with it is not used. -/
  | stop (tick : Tick)
  /-- The command frame `RESET____` (R95). -/
  | reset (tick : Tick)
  /-- The command frame `TRGMODE__` (R96). -/
  | trgmode (tick : Tick)
  /-- The command frame `INTMODE__` (R97). -/
  | intmode (tick : Tick)
  /-- Any other command frame (R98). -/
  | cmdOther (frame : List Byte) (tick : Tick)
  /-- An analog packet, 0xA0, put on the transmit channel (R106). -/
  | pktAnalog (payload : List Byte)
  /-- An edge packet, 0xB0, put on the transmit channel (R107). -/
  | pktEdge (payload : List Byte)
  /-- A start-marker packet, 0xC0, put on the transmit channel (R108). -/
  | pktStart (payload : List Byte)
  /-- A busy packet, 0xD0, put on the transmit channel (R109). -/
  | pktBusy (payload : List Byte)
  /-- ENCODE on the frame-encoder port: type byte, payload length, the 20 payload bytes of the request (R57, R105). -/
  | encodeReq (ty : Byte) (len : BitVec 5) (payload : List Byte)
  deriving DecidableEq, Repr

end Sys2Proof
end

