-- ==== Sys2Proof/Decode.lean ====
section
/-! DEFINITION. The bytes of a transaction on each port, read (`decode`) and written (`encode`) (R53 to R70). -/

namespace Sys2Proof

/-! ## Multi-byte values -/

/-- `le32(v)` (00_scope.md section 5, R41): the least significant byte first. -/
def le32 (v : Tick) : List Byte :=
  [v.extractLsb' 0 8, v.extractLsb' 8 8, v.extractLsb' 16 8, v.extractLsb' 24 8]

/-- The value whose `le32` is these four bytes (R86). -/
def ofLe32 (b0 b1 b2 b3 : Byte) : Tick := b3 ++ b2 ++ b1 ++ b0

/-- The low `k` bytes of `w`, most significant first: how a byte string stands in spec/opcode_table.json (R54). -/
def beBytes : Nat → Nat → List Byte
  | 0, _ => []
  | k + 1, w => BitVec.ofNat 8 (w / 256 ^ k) :: beBytes k w

/-- The count `n` in `k` bytes, least significant first (log 11; one byte for `LEN_W = 8`, R70). -/
def leBytes : Nat → Nat → List Byte
  | 0, _ => []
  | k + 1, n => BitVec.ofNat 8 n :: leBytes k (n / 256)

/-- The number these bytes stand for, least significant first (log 11). -/
def ofLeBytes : List Byte → Nat
  | [] => 0
  | b :: bs => b.toNat + 256 * ofLeBytes bs

/-- The number of bytes that carry a count of `LEN_W` bits (R70: one byte when `LEN_W = 8`; log 11). -/
def countBytes (c : Config) : Nat := (c.lenW + 7) / 8

/-! ## Command tokens -/

/-- `START____` (R62; the ASCII values are log 15). -/
def tokenStart : List Byte := [0x53, 0x54, 0x41, 0x52, 0x54, 0x5F, 0x5F, 0x5F, 0x5F]
/-- `STOP_____` (R62). -/
def tokenStop : List Byte := [0x53, 0x54, 0x4F, 0x50, 0x5F, 0x5F, 0x5F, 0x5F, 0x5F]
/-- `RESET____` (R62). -/
def tokenReset : List Byte := [0x52, 0x45, 0x53, 0x45, 0x54, 0x5F, 0x5F, 0x5F, 0x5F]
/-- `TRGMODE__` (R62). -/
def tokenTrgmode : List Byte := [0x54, 0x52, 0x47, 0x4D, 0x4F, 0x44, 0x45, 0x5F, 0x5F]
/-- `INTMODE__` (R62). -/
def tokenIntmode : List Byte := [0x49, 0x4E, 0x54, 0x4D, 0x4F, 0x44, 0x45, 0x5F, 0x5F]

/-- The five recognized commands (R62). -/
inductive Command where
  | start
  | stop
  | reset
  | trgmode
  | intmode
  deriving DecidableEq, Repr

/-- The second level of decoding: the whole frame equals a token, or it is no command (R65). -/
def decodeCommand (frame : List Byte) : Option Command :=
  if frame = tokenStart then some .start
  else if frame = tokenStop then some .stop
  else if frame = tokenReset then some .reset
  else if frame = tokenTrgmode then some .trgmode
  else if frame = tokenIntmode then some .intmode
  else none

/-! ## Ports and results of decoding -/

/-- The port a byte stream is on; it is stated with the stream (R70, C11). -/
inductive Port where
  /-- The block port: the port of a block program. -/
  | evt
  /-- The FIFO port on its own. -/
  | fifo
  /-- The frame-encoder port on its own. -/
  | encoder
  /-- The port of a component program, whose lines are FIFOREQ and ENCREQ requests (R70; log 20). -/
  | component
  /-- The channel of CMD9 (R53; log 7). -/
  | receive
  /-- The channel of PKT21 (R53; log 8). -/
  | transmit
  deriving DecidableEq, Repr

/-- Bytes still to be delivered on one port: the encodings of transactions, one after the other (R70). -/
structure Segment where
  port : Port
  bytes : List Byte
  deriving DecidableEq, Repr

/-- Why a request is refused. The first five are the spec's (R132); the others are this model's. -/
inductive RefuseReason where
  /-- A reserved EVT or FIFOREQ code byte (R66, R67). -/
  | reservedCode
  /-- An EDGE whose pin byte is not 0x00 or 0x01 (R67). -/
  | badPin
  /-- A TX_OPP operand byte with bits 7:2 not 000000 (R67). -/
  | badTxOppBits
  /-- An ADC_DONE whose block is not `ANALOG_CHUNK` bytes (R83). -/
  | badChunkLength
  /-- An ENCODE whose type is none of the four (R105). -/
  | badPacketType
  /-- The model's own (log 11): the carrier of a count holds a value of more than `LEN_W` bits. -/
  | badCount
  /-- The model's own (log 12): the two header bytes of an ENCREQ hold more than 13 bits. -/
  | badHeader
  /-- The model's own (log 8): a packet row offered in a state in which the block does not send that packet. -/
  | packetNotProduced
  deriving DecidableEq, Repr

/-- What decoding the front of a stream gives. -/
inductive Decoded where
  /-- A transaction, and the bytes after it. -/
  | ok (i : Instr) (rest : List Byte)
  /-- A reserved or malformed transaction, rejected by name, and the bytes after it (log 9). -/
  | rejected (r : RefuseReason) (rest : List Byte)
  /-- The stream ends inside a transaction (log 13). -/
  | short
  deriving DecidableEq, Repr

/-! ## Decoding -/

/-- A transaction with two operand parts, a frame of 9 bytes and a tick (R55, code 0011). -/
def decodeFrameTick (f : List Byte → Tick → Instr) (bs : List Byte) : Decoded :=
  match bs with
  | f0 :: f1 :: f2 :: f3 :: f4 :: f5 :: f6 :: f7 :: f8 :: t0 :: t1 :: t2 :: t3 :: rest =>
    .ok (f [f0, f1, f2, f3, f4, f5, f6, f7, f8] (ofLe32 t0 t1 t2 t3)) rest
  | _ => .short

/-- ADC_DONE's operand: the next `ANALOG_CHUNK` bytes (R55). -/
def decodeAdcDone (c : Config) (bs : List Byte) : Decoded :=
  if bs.length < c.analogChunk then .short
  else .ok (.adcDone (bs.take c.analogChunk)) (bs.drop c.analogChunk)

/-- EDGE's operands: `le32(tick)`, then the pin byte (R55, R63, R67). -/
def decodeEdge (bs : List Byte) : Decoded :=
  match bs with
  | t0 :: t1 :: t2 :: t3 :: p :: rest =>
    if p = 0x00 then .ok (.edge (ofLe32 t0 t1 t2 t3) false) rest
    else if p = 0x01 then .ok (.edge (ofLe32 t0 t1 t2 t3) true) rest
    else .rejected .badPin rest
  | _ => .short

/-- TX_OPP's operand byte `000000lb` (R55, R67). -/
def decodeTxOpp (bs : List Byte) : Decoded :=
  match bs with
  | o :: rest =>
    if o.extractLsb' 2 6 = 0 then .ok (.txOpp (o.getLsbD 0) (o.getLsbD 1)) rest
    else .rejected .badTxOppBits rest
  | [] => .short

/-- The block port: a code byte `0000eeee` and its operands (R55, R67). -/
def decodeEvt (c : Config) (bs : List Byte) : Decoded :=
  match bs with
  | [] => .short
  | code :: ops =>
    if code = 0x00 then .ok .rst ops
    else if code = 0x01 then decodeAdcDone c ops
    else if code = 0x02 then decodeEdge ops
    else if code = 0x03 then decodeFrameTick .cmdRx ops
    else if code = 0x04 then decodeTxOpp ops
    else if code = 0x05 then .ok .txDone ops
    else .rejected .reservedCode ops

/-- The FIFO a code byte of the FIFO port selects: bit 7 (R56). -/
def fifoOfCode (code : Byte) : Fifo := if code.getLsbD 7 then .E else .A

/-- ENQ's operands: the count `n`, then `n` bytes (R56, R63; log 11). DESIGN CHOICE (log 11): the spec is silent on
what an ENQ with a count of more than `LEN_W` bits takes; refused, it takes its code byte and the carrier of the count,
and the bytes after them are read as the next request. -/
def decodeEnq (c : Config) (x : Fifo) (bs : List Byte) : Decoded :=
  if bs.length < countBytes c then .short
  else if ofLeBytes (bs.take (countBytes c)) < 2 ^ c.lenW then
    if (bs.drop (countBytes c)).length < ofLeBytes (bs.take (countBytes c)) then .short
    else .ok (.enq x ((bs.drop (countBytes c)).take (ofLeBytes (bs.take (countBytes c)))))
      ((bs.drop (countBytes c)).drop (ofLeBytes (bs.take (countBytes c))))
  else .rejected .badCount (bs.drop (countBytes c))

/-- DEQ's operand: the count `n` (R56, R63; log 11). A count of more than `LEN_W` bits is refused with its carrier. -/
def decodeDeq (c : Config) (x : Fifo) (bs : List Byte) : Decoded :=
  if bs.length < countBytes c then .short
  else if ofLeBytes (bs.take (countBytes c)) < 2 ^ c.lenW then
    .ok (.deq x (ofLeBytes (bs.take (countBytes c)))) (bs.drop (countBytes c))
  else .rejected .badCount (bs.drop (countBytes c))

/-- The FIFO port: a code byte `s0000ooo` and its operands (R56, R66). -/
def decodeFifo (c : Config) (bs : List Byte) : Decoded :=
  match bs with
  | [] => .short
  | code :: ops =>
    if code.extractLsb' 0 7 = 0x00#7 then .ok (.clr (fifoOfCode code)) ops
    else if code.extractLsb' 0 7 = 0x01#7 then decodeEnq c (fifoOfCode code) ops
    else if code.extractLsb' 0 7 = 0x02#7 then decodeDeq c (fifoOfCode code) ops
    else if code.extractLsb' 0 7 = 0x03#7 then .ok (.empty (fifoOfCode code)) ops
    else if code.extractLsb' 0 7 = 0x04#7 then .ok (.full (fifoOfCode code)) ops
    else if code.extractLsb' 0 7 = 0x05#7 then .ok (.len (fifoOfCode code)) ops
    else .rejected .reservedCode ops

/-- The encoder port: `zext_16(header)`, most significant byte first, then 20 payload bytes (R57, R70; log 12). -/
def decodeEncoder (bs : List Byte) : Decoded :=
  match bs with
  | h1 :: h0 :: ops =>
    if ops.length < 20 then .short
    else if (h1 ++ h0).extractLsb' 13 3 = 0 then
      .ok (.encodeReq ((h1 ++ h0).extractLsb' 5 8) ((h1 ++ h0).extractLsb' 0 5) (ops.take 20)) (ops.drop 20)
    else .rejected .badHeader (ops.drop 20)
  | _ => .short

/-- The port of a component program (R70). DESIGN CHOICE (log 20): the two kinds of request stand in one byte string,
and the spec does not say how they are told apart; a first byte that is no FIFOREQ code in use and is the first byte of
a 13-bit header, 0x06 to 0x1F, begins an ENCREQ, every other one a FIFOREQ. -/
def decodeComponent (c : Config) (bs : List Byte) : Decoded :=
  match bs with
  | [] => .short
  | b :: ops => if 0x06 ≤ b.toNat ∧ b.toNat < 0x20 then decodeEncoder (b :: ops) else decodeFifo c (b :: ops)

/-- The command that a received frame is (R65; log 7). -/
def commandInstr (frame : List Byte) (tick : Tick) : Instr :=
  match decodeCommand frame with
  | some .start => .start tick
  | some .stop => .stop tick
  | some .reset => .reset tick
  | some .trgmode => .trgmode tick
  | some .intmode => .intmode tick
  | none => .cmdOther frame tick

/-- The receive channel: a CMD9 frame, then the tick sampled with it (R53, R62, R65; log 7). -/
def decodeReceive (bs : List Byte) : Decoded := decodeFrameTick commandInstr bs

/-- The transmit channel: a PKT21, its type byte, then 20 payload bytes (R58; log 8). -/
def decodeTransmit (bs : List Byte) : Decoded :=
  match bs with
  | [] => .short
  | ty :: ops =>
    if ops.length < 20 then .short
    else if ty = 0xA0 then .ok (.pktAnalog (ops.take 20)) (ops.drop 20)
    else if ty = 0xB0 then .ok (.pktEdge (ops.take 20)) (ops.drop 20)
    else if ty = 0xC0 then .ok (.pktStart (ops.take 20)) (ops.drop 20)
    else if ty = 0xD0 then .ok (.pktBusy (ops.take 20)) (ops.drop 20)
    else .rejected .packetNotProduced (ops.drop 20)

/-- The first transaction of a byte stream on a port (R65). Total: reserved and malformed ones are rejected by name. -/
def decode (c : Config) (p : Port) (bs : List Byte) : Decoded :=
  match p with
  | .evt => decodeEvt c bs
  | .fifo => decodeFifo c bs
  | .encoder => decodeEncoder bs
  | .component => decodeComponent c bs
  | .receive => decodeReceive bs
  | .transmit => decodeTransmit bs

/-! ## Encoding -/

/-- The port of its own that an instruction is delivered on (R55, R56, R57; log 7, log 8). -/
def portOf : Instr → Port
  | .rst => .evt
  | .adcDone _ => .evt
  | .edge _ _ => .evt
  | .cmdRx _ _ => .evt
  | .txOpp _ _ => .evt
  | .txDone => .evt
  | .clr _ => .fifo
  | .enq _ _ => .fifo
  | .deq _ _ => .fifo
  | .empty _ => .fifo
  | .full _ => .fifo
  | .len _ => .fifo
  | .start _ => .receive
  | .stop _ => .receive
  | .reset _ => .receive
  | .trgmode _ => .receive
  | .intmode _ => .receive
  | .cmdOther _ _ => .receive
  | .pktAnalog _ => .transmit
  | .pktEdge _ => .transmit
  | .pktStart _ => .transmit
  | .pktBusy _ => .transmit
  | .encodeReq _ _ _ => .encoder

/-- Bit 7 of a FIFOREQ code byte (R56). -/
def fifoBit : Fifo → Byte
  | .A => 0x00
  | .E => 0x80

/-- A bit as a byte, `zext_8` (R63). -/
def bitByte (b : Bool) : Byte := if b then 0x01 else 0x00

/-- TX_OPP's operand byte `000000lb` (R55). -/
def txOppByte (adcBusy linkOk : Bool) : Byte := (if linkOk then 0x02 else 0x00) ||| bitByte adcBusy

/-- The two bytes `zext_16(header)` of an ENCREQ, most significant first (R57, R70). -/
def encHeader (ty : Byte) (len : BitVec 5) : List Byte :=
  [(0x0#3 ++ ty ++ len).extractLsb' 8 8, (0x0#3 ++ ty ++ len).extractLsb' 0 8]

/-- The bytes of an instruction on its port (R55, R56, R57, R58, R62, R70). -/
def encode (c : Config) : Instr → List Byte
  | .rst => [0x00]
  | .adcDone block => 0x01 :: block
  | .edge tick pin => 0x02 :: (le32 tick ++ [bitByte pin])
  | .cmdRx frame tick => 0x03 :: (frame ++ le32 tick)
  | .txOpp adcBusy linkOk => [0x04, txOppByte adcBusy linkOk]
  | .txDone => [0x05]
  | .clr x => [fifoBit x ||| 0x00]
  | .enq x data => (fifoBit x ||| 0x01) :: (leBytes (countBytes c) data.length ++ data)
  | .deq x n => (fifoBit x ||| 0x02) :: leBytes (countBytes c) n
  | .empty x => [fifoBit x ||| 0x03]
  | .full x => [fifoBit x ||| 0x04]
  | .len x => [fifoBit x ||| 0x05]
  | .start tick => tokenStart ++ le32 tick
  | .stop tick => tokenStop ++ le32 tick
  | .reset tick => tokenReset ++ le32 tick
  | .trgmode tick => tokenTrgmode ++ le32 tick
  | .intmode tick => tokenIntmode ++ le32 tick
  | .cmdOther frame tick => frame ++ le32 tick
  | .pktAnalog payload => 0xA0 :: payload
  | .pktEdge payload => 0xB0 :: payload
  | .pktStart payload => 0xC0 :: payload
  | .pktBusy payload => 0xD0 :: payload
  | .encodeReq ty len payload => encHeader ty len ++ payload

/-! ## Programs (R70) -/

/-- Whether an instruction is a line of the programs on a port. A component program has the FIFOREQ and the ENCREQ
lines (R70), but for an ENCREQ of a type below 0x30, whose first byte is a FIFOREQ code (log 20). -/
def carries (p : Port) (i : Instr) : Bool :=
  match p with
  | .evt => decide (portOf i = .evt)
  | .fifo => decide (portOf i = .fifo)
  | .encoder => decide (portOf i = .encoder)
  | .component =>
    match i with
    | .encodeReq ty _ _ => decide (0x30 ≤ ty.toNat)
    | i => decide (portOf i = .fifo)
  | .receive => decide (portOf i = .receive)
  | .transmit => decide (portOf i = .transmit)

/-- A program's encoding: the concatenation of its lines' encodings, on the one port stated with it (R70). -/
def encodeProgram (c : Config) (p : Port) (is : List Instr) : Segment := ⟨p, is.flatMap (encode c)⟩

/-- The lines of a byte string, at most `fuel` of them; none if a part of it is no line. -/
def decodeLines (c : Config) (p : Port) : Nat → List Byte → Option (List Instr)
  | _, [] => some []
  | 0, _ :: _ => none
  | fuel + 1, b :: bs =>
    match decode c p (b :: bs) with
    | .ok i rest => (decodeLines c p fuel rest).map (i :: ·)
    | .rejected _ _ => none
    | .short => none

/-- The lines of a program, read from its encoding; every line takes at least one byte. -/
def decodeProgram (c : Config) (seg : Segment) : Option (List Instr) :=
  decodeLines c seg.port seg.bytes.length seg.bytes

/-! ## Pseudo-instructions (R70) -/

/-- `TRGSTART t`. -/
def trgStart (t : Tick) : List Instr := [.cmdRx tokenTrgmode t, .cmdRx tokenStart t]
/-- `CONTSTART t`. -/
def contStart (t : Tick) : List Instr := [.cmdRx tokenIntmode t, .cmdRx tokenStart t]
/-- `SEND b`. -/
def sendOne (b : Bool) : List Instr := [.txOpp b true, .txDone]
/-- `EDGEREC X, t, s`. -/
def edgeRec (x : Fifo) (t : Tick) (s : Byte) : List Instr := [.enq x (le32 t ++ [s])]

/-! ## The host's view of the opcode table -/

/-- The port and bytes of the transaction that a row's bits `w` begin, followed by zero bytes (log 14). Rows of 8 bits
are code bytes, of the block port where it has that code; the 13-bit row is the encoder's header; 72 bits are a command
frame and 168 a packet, byte 0 most significant (R54). -/
def tableStream (c : Config) (nbits w : Nat) : Segment :=
  if nbits ≤ 8 then
    ⟨if w % 256 < 128 then .evt else .fifo, BitVec.ofNat 8 w :: List.replicate (c.analogChunk + 13) 0⟩
  else if nbits ≤ 16 then ⟨.encoder, beBytes 2 w ++ List.replicate 20 0⟩
  else if nbits ≤ 72 then ⟨.receive, beBytes 9 w ++ List.replicate 4 0⟩
  else ⟨.transmit, beBytes 21 w⟩

/-- The segment that holds exactly the transaction a row's bits `w` stand for, operand bytes zero (log 14). -/
def tableSegment (c : Config) (nbits w : Nat) : Segment :=
  match decode c (tableStream c nbits w).port (tableStream c nbits w).bytes with
  | .ok i _ => ⟨portOf i, encode c i⟩
  | .rejected _ _ => tableStream c nbits w
  | .short => tableStream c nbits w

/-- The instruction whose bits, numbered as spec/opcode_table.json numbers them, are `w` (log 14). -/
def decodeTableWord (nbits w : Nat) : Option Instr :=
  match decode Config.ref (tableStream Config.ref nbits w).port (tableStream Config.ref nbits w).bytes with
  | .ok i _ => some i
  | .rejected _ _ => none
  | .short => none

end Sys2Proof
end

