-- ==== Sys2Proof/Machine/State.lean ====
section
/-! DEFINITION. The state of the block (R15 to R37), its observation (R34), and the state after reset (R150, R151). -/

namespace Sys2Proof.Machine

/-- Why the machine stops. -/
inductive Fault where
  /-- Raised by `step` when the stimulus ends inside a transaction: the environment has delivered no move that the
  formats carry (R139), so no step is defined (log 13). Safe: the model stops where the hardware waits. -/
  | truncatedTransaction
  deriving DecidableEq, Repr

/-- Why an instruction has no meaning in this model. -/
inductive Refusal where
  /-- Raised by `exec` for an instruction whose meaning is not written yet. Safe: the model stops. -/
  | notModelled (mnemonic : String)
  deriving DecidableEq, Repr

/-- A packet, or any byte string of the transmit channel (R58). -/
abbrev Packet := List Byte

/-- The backing array of a FIFO: the cells that do not hold 0x00, by rising index (R16; log 18). -/
abbrev Memory := List Host.Cell

/-- The elements of one FIFO (R16) and its drop counter (R20). -/
structure FifoState where
  /-- `buf_X`, the "fixed-size backing array". -/
  buf : Memory
  /-- `head_X`, the write index. -/
  head : Nat
  /-- `tail_X`, the read index. -/
  tail : Nat
  /-- `count_X`, the items held. -/
  count : Nat
  /-- `drop_X`, the producer enqueues rejected, modulo 2^32. -/
  drop : BitVec 32
  deriving DecidableEq, Repr

/-- `run` (R21). -/
inductive Run where
  | stopped
  | running
  deriving DecidableEq, Repr

/-- `cfg_mode` (R22). The value 11 is never written and is excluded by type (I12). -/
inductive CfgMode where
  | none
  | continuous
  | triggered
  deriving DecidableEq, Repr

/-- `burst` (R27). The value 11 is excluded by type (I12). -/
inductive Burst where
  | off
  | armed
  | running
  deriving DecidableEq, Repr

/-- The source's AcquisitionMode as a view (R24). -/
inductive ModeView where
  | stopped
  | continuous
  | triggered
  /-- `run = Running` with no style configured; R23 says no run reaches it. -/
  | unconfigured
  deriving DecidableEq, Repr

/-- The sticky fault, the value of `fault` when it is not none (R31). -/
inductive StickyFault where
  | payloadTooLarge (len : Nat)
  deriving DecidableEq, Repr

/-- A capability request (R34, R139). -/
inductive CapRequest where
  | startAnalogAcquisition
  | stopAnalogAcquisition
  | startTimer (id : Nat)
  | stopTimer (id : Nat)
  | transmitBytes (pkt : Packet) (len : Nat)
  | receiveBytes (len : Nat)
  deriving DecidableEq, Repr

/-- The info of a `LinkBusy` event (R130). -/
inductive LinkBusyInfo where
  | deferred
  | lost
  deriving DecidableEq, Repr

/-- An entry of `errlog` (R126). -/
inductive ErrorEvent where
  | bufferOverflow (x : Fifo) (n count : Nat)
  | unrecognizedCommand (frame : List Byte)
  | payloadTooLarge (len : Nat)
  | linkBusy (info : LinkBusyInfo)
  deriving DecidableEq, Repr

/-- The answer of a request on the FIFO port or the encoder port (R56, R57; log 6). -/
inductive Response where
  /-- ENQ's `written`. -/
  | written (n : Nat)
  /-- DEQ's `out`; its `k` is the number of bytes. -/
  | bytes (out : List Byte)
  /-- EMPTY's and FULL's bit. -/
  | bit (b : Bool)
  /-- LEN's `count_X`. -/
  | length (n : Nat)
  /-- ENCODE's packet. -/
  | packet (pkt : Packet)
  deriving DecidableEq, Repr

/-- The state of the model. -/
structure State where
  /-- The build's parameters (R7, R8), which no step changes (log 2). -/
  cfg : Config
  /-- FIFO `A` (R16, R20). -/
  fifoA : FifoState
  /-- FIFO `E` (R16, R20). -/
  fifoE : FifoState
  /-- R21. -/
  run : Run
  /-- R22. -/
  cfgMode : CfgMode
  /-- R25. -/
  adcEn : Bool
  /-- R26. -/
  edgeEn : Bool
  /-- R27. -/
  burst : Burst
  /-- R28. -/
  markerPending : Bool
  /-- R28. -/
  markerTick : Tick
  /-- R29. -/
  txBusy : Bool
  /-- R29, a 21-byte register. -/
  txPkt : Packet
  /-- R30. -/
  rxArmed : Bool
  /-- R31. -/
  fault : Option StickyFault
  /-- The packets the link accepted, in hand-off order (R34). -/
  txlog : List Packet
  /-- The capability requests issued, in order (R34). -/
  caplog : List CapRequest
  /-- The error events raised, in order (R34, R126). -/
  errlog : List ErrorEvent
  /-- The reason of the first refused request (R34, R132). -/
  refused : Option RefuseReason
  /-- The model's own: the answer of the last request on the FIFO or encoder port (log 6). -/
  resp : Option Response
  /-- The model's own: the transactions still to be delivered (log 1). -/
  stim : List Segment
  /-- The model's own: how many values have been drawn freely by RST (log 5). -/
  draws : Nat
  deriving DecidableEq, Repr

/-- A FIFO after INIT (R71, R150): storage zeroed, nothing held, nothing dropped. -/
def FifoState.empty : FifoState where
  buf := []
  head := 0
  tail := 0
  count := 0
  drop := 0

/-- The machine right after the power-on reset (R150, R151), in the reference configuration (log 2). The spec gives
`tx_pkt` no value: DESIGN CHOICE, twenty-one zero bytes (log 4). -/
def State.reset : State where
  cfg := Config.ref
  fifoA := FifoState.empty
  fifoE := FifoState.empty
  run := .stopped
  cfgMode := .none
  adcEn := false
  edgeEn := false
  burst := .off
  markerPending := false
  markerTick := 0
  txBusy := false
  txPkt := List.replicate 21 0x00
  rxArmed := true
  fault := none
  txlog := []
  caplog := [.receiveBytes 9]
  errlog := []
  refused := none
  resp := none
  stim := []
  draws := 0

end Sys2Proof.Machine
end

