-- ==== Sys2Proof/Machine/Flags.lean ====
section
/-! DEFINITION. The flags and views that are functions of the state: EMPTY and FULL (R19), the mode view (R24), the
STATUS image (R32), the error codes (R126). -/

namespace Sys2Proof.Machine

/-- `is_empty(X)` (R19, R75). -/
def FifoState.isEmpty (f : FifoState) : Bool := decide (f.count = 0)

/-- `is_full(X)` (R19, R76), `cap` being `CAP_X`. -/
def FifoState.isFull (f : FifoState) (cap : Nat) : Bool := decide (f.count = cap)

/-- The view that the source calls AcquisitionMode (R24). -/
def State.modeView (s : State) : ModeView :=
  match s.run with
  | .stopped => .stopped
  | .running =>
    match s.cfgMode with
    | .none => .unconfigured
    | .continuous => .continuous
    | .triggered => .triggered

/-- The encoding of `run` (R21). -/
def runBits : Run → BitVec 1
  | .stopped => 0#1
  | .running => 1#1

/-- The encoding of `cfg_mode` (R22). -/
def cfgModeBits : CfgMode → BitVec 2
  | .none => 0b00#2
  | .continuous => 0b01#2
  | .triggered => 0b10#2

/-- The encoding of `burst` (R27). -/
def burstBits : Burst → BitVec 2
  | .off => 0b00#2
  | .armed => 0b01#2
  | .running => 0b10#2

/-- The STATUS image, bits 15:11 reserved and read as 0 (R32). -/
def State.status (s : State) : BitVec 16 :=
  0#5 ++ BitVec.ofBool s.fault.isSome ++ BitVec.ofBool s.rxArmed ++ BitVec.ofBool s.txBusy
    ++ BitVec.ofBool s.markerPending ++ burstBits s.burst ++ BitVec.ofBool s.edgeEn ++ BitVec.ofBool s.adcEn
    ++ cfgModeBits s.cfgMode ++ runBits s.run

/-- The numeric code of an error event (R126, D34). -/
def ErrorEvent.code : ErrorEvent → Nat
  | .bufferOverflow _ _ _ => 1
  | .unrecognizedCommand _ => 2
  | .payloadTooLarge _ => 3
  | .linkBusy _ => 4

/-- The number of a `LinkBusy` event's info (R126, D34). -/
def LinkBusyInfo.number : LinkBusyInfo → Nat
  | .deferred => 0
  | .lost => 1

end Sys2Proof.Machine
end

