-- ==== Sys2Proof/Machine/Operands.lean ====
section
/-! DEFINITION. The multi-byte values the block builds from operands (R64), and how they are read back (R86, R113). -/

namespace Sys2Proof.Machine

/-- EDGEREC, `le32(tick) ++ [zext_8(pin)]` (R60, R64, R85). -/
def edgeRecord (tick : Tick) (pin : Bool) : List Byte := le32 tick ++ [bitByte pin]

/-- The tick and state byte of an edge record (R86). -/
def readEdgeRecord : List Byte → Option (Tick × Byte)
  | [b0, b1, b2, b3, st] => some (ofLe32 b0 b1 b2 b3, st)
  | _ => none

/-- What a receiver learns from a packet (R113). -/
inductive Received where
  | analog (bytes : List Byte)
  | edges (records : List (Tick × Byte))
  | startMarker (tick : Tick)
  /-- The number of data bytes is not carried (I6), so the whole payload is given. -/
  | busy (payload : List Byte)
  deriving DecidableEq, Repr

/-- The first `k` edge records of a byte string. -/
def readRecords : Nat → List Byte → List (Tick × Byte)
  | k + 1, b0 :: b1 :: b2 :: b3 :: st :: rest => (ofLe32 b0 b1 b2 b3, st) :: readRecords k rest
  | _, _ => []

/-- How a receiver reads a packet of a build `c`: the type byte names the origin (R113). -/
def receivePacket (c : Config) : Packet → Option Received
  | [] => none
  | ty :: payload =>
    if ty = 0xA0 then some (.analog payload)
    else if ty = 0xB0 then some (.edges (readRecords (c.slice / 5) payload))
    else if ty = 0xC0 then
      match payload with
      | b0 :: b1 :: b2 :: b3 :: _ => some (.startMarker (ofLe32 b0 b1 b2 b3))
      | _ => none
    else if ty = 0xD0 then some (.busy payload)
    else none

end Sys2Proof.Machine
end

