-- ==== Sys2Proof/Machine/Ops.lean ====
section
/-! DEFINITION. The named operations the meanings are written over: storage, the FIFO operations (R71 to R74), raising,
refusing, faulting (R126, R131, R132), the encoder (R105), the sequencer's hand-off (R118), fetching a transaction. -/

namespace Sys2Proof.Machine

/-! ## Storage -/

/-- `MemRead` of one cell: the byte held at index `a`, 0x00 where nothing is listed (R16, R38; log 18). -/
def Memory.read : Memory → Nat → Byte
  | [], _ => 0x00
  | (k, v) :: m, a => if k = a then v else Memory.read m a

/-- `MemWrite` of one cell (R38), in the canonical form: rising indices, no cell that holds 0x00. -/
def Memory.write : Memory → Nat → Byte → Memory
  | [], a, v => if v = 0x00 then [] else [(a, v)]
  | (k, w) :: m, a, v =>
    if a < k then (if v = 0x00 then (k, w) :: m else (a, v) :: (k, w) :: m)
    else if a = k then (if v = 0x00 then m else (a, v) :: m)
    else (k, w) :: Memory.write m a v

/-- Every listed index is at least `lo`, the indices rise strictly, and no listed byte is 0x00. -/
def Memory.wfFrom : Nat → Memory → Bool
  | _, [] => true
  | lo, (k, v) :: m => decide (lo ≤ k) && decide (v ≠ 0x00) && Memory.wfFrom (k + 1) m

/-- The canonical form of storage. -/
def Memory.wf (m : Memory) : Bool := Memory.wfFrom 0 m

/-- Every listed index is a cell of an array of `cap` bytes (R38). -/
def Memory.within (cap : Nat) (m : Memory) : Bool := m.all fun cell => decide (cell.1 < cap)

/-- ENQ's loop (R73): the bytes of `data` go to the indices `(at + i) mod cap`. -/
def storeBytes (cap : Nat) : Memory → Nat → List Byte → Memory
  | m, _, [] => m
  | m, i, d :: ds => storeBytes cap (Memory.write m (i % cap) d) (i + 1) ds

/-- DEQ's loop (R74): the `k` bytes at the indices `(at + i) mod cap`. -/
def loadBytes (cap : Nat) (m : Memory) : Nat → Nat → List Byte
  | _, 0 => []
  | i, k + 1 => Memory.read m (i % cap) :: loadBytes cap m (i + 1) k

/-! ## Parts of the state -/

/-- FIFO `X`. -/
def State.fifo (s : State) : Fifo → FifoState
  | .A => s.fifoA
  | .E => s.fifoE

/-- The state with FIFO `X` replaced. -/
def State.setFifo (s : State) (x : Fifo) (f : FifoState) : State :=
  match x with
  | .A => { s with fifoA := f }
  | .E => { s with fifoE := f }

/-- `CAP_X`. -/
def State.cap (s : State) (x : Fifo) : Nat := s.cfg.cap x

/-! ## Outcomes of a step -/

/-- `raise <Error>(info)` (R126). -/
def State.raise (s : State) (e : ErrorEvent) : State := { s with errlog := s.errlog ++ [e] }

/-- `emit Cap(...)` (R34, R139). -/
def State.emit (s : State) (r : CapRequest) : State := { s with caplog := s.caplog ++ [r] }

/-- `refuse <Reason>`: only the mark is set, and the first reason stays (R34, R132; log 9). -/
def State.refuse (s : State) (r : RefuseReason) : State := { s with refused := s.refused.or (some r) }

/-- The answer of a request on the FIFO or encoder port (log 6). -/
def State.respond (s : State) (r : Option Response) : State := { s with resp := r }

/-- `fault PayloadTooLarge(len)`, the block's one fault (R129, R131): the entry `(3, len)` and the sticky fault. This is
the whole of taking an exception here: nothing is saved and nothing is jumped to (R138), and only RST returns. -/
def State.faultWith (s : State) (len : Nat) : State :=
  { s.raise (.payloadTooLarge len) with fault := some (.payloadTooLarge len) }

/-- A transaction is taken unless the block has faulted; a faulted block is quiescent, and the transaction changes
nothing (R31, R131; log 10). -/
def taken (s : State) (body : State → State) : Host.Outcome State Fault Refusal :=
  if s.fault.isSome then .next s else .next (body s)

/-! ## FIFO operations -/

/-- CLR (R72): storage zeroed, nothing held; the drop counter stays. -/
def State.clearFifo (s : State) (x : Fifo) : State :=
  s.setFifo x { s.fifo x with buf := [], head := 0, tail := 0, count := 0 }

/-- ENQ (R73): all of `data`, or nothing and a BufferOverflow. Answers `written` and the state. -/
def State.enqueue (s : State) (x : Fifo) (data : List Byte) : Nat × State :=
  if s.cap x < (s.fifo x).count + data.length then
    (0, s.raise (.bufferOverflow x data.length (s.fifo x).count))
  else
    (data.length, s.setFifo x { s.fifo x with
      buf := storeBytes (s.cap x) (s.fifo x).buf (s.fifo x).head data
      head := ((s.fifo x).head + data.length) % s.cap x
      count := (s.fifo x).count + data.length })

/-- DEQ (R74): up to `n` bytes from the front. Answers `out`, whose length is `k`, and the state. -/
def State.dequeue (s : State) (x : Fifo) (n : Nat) : List Byte × State :=
  (loadBytes (s.cap x) (s.fifo x).buf (s.fifo x).tail (min n (s.fifo x).count),
    s.setFifo x { s.fifo x with
      tail := ((s.fifo x).tail + min n (s.fifo x).count) % s.cap x
      count := (s.fifo x).count - min n (s.fifo x).count })

/-- `drop_X <- (drop_X + 1) mod 2^32` (R20, R83, R85). -/
def State.countDrop (s : State) (x : Fifo) : State :=
  s.setFifo x { s.fifo x with drop := (s.fifo x).drop + 1 }

/-- `drop_X <- 0` (R93, R95). -/
def State.clearDrop (s : State) (x : Fifo) : State :=
  s.setFifo x { s.fifo x with drop := 0 }

/-- A producer's enqueue: a rejected one is counted (R83, R85, R127). A producer's `data` is never empty. -/
def State.produce (s : State) (x : Fifo) (data : List Byte) : State :=
  if (s.enqueue x data).1 = 0 then (s.enqueue x data).2.countDrop x else (s.enqueue x data).2

/-! ## The encoder -/

/-- What ENCODE answers (R105). -/
inductive Encoded where
  | packet (pkt : Packet)
  | badType
  | tooLarge (len : Nat)
  deriving DecidableEq, Repr

/-- The four packet types (R58). -/
def isPacketType (ty : Byte) : Bool := ty == 0xA0 || ty == 0xB0 || ty == 0xC0 || ty == 0xD0

/-- A packet: the type byte, the payload, `FILL` up to 20 payload bytes (R64, R105, R110). -/
def buildPacket (fill ty : Byte) (payload : List Byte) : Packet :=
  ty :: (payload ++ List.replicate (20 - payload.length) fill)

/-- ENCODE (R105): the type is checked before the length (R134). -/
def encodePacket (c : Config) (ty : Byte) (len : Nat) (payload : List Byte) : Encoded :=
  if isPacketType ty then
    if 20 < len then .tooLarge len else .packet (buildPacket c.fill ty (payload.take len))
  else .badType

/-! ## The sequencer -/

/-- `Send` (R118): the link takes the packet, or the packet is lost. -/
def State.send (s : State) (pkt : Packet) (linkOk : Bool) : State :=
  let s := s.emit (.transmitBytes pkt 21)
  if linkOk then { s with txPkt := pkt, txBusy := true, txlog := s.txlog ++ [pkt] }
  else s.raise (.linkBusy .lost)

/-- The arbitration of TX_OPP with the link idle (R114, R116, R117, R121): what the encoder answers for the chosen
source, and the state with that source's bytes taken; none when there is nothing to send. -/
def State.arbitrate (s : State) (adcBusy : Bool) : Option (Encoded × State) :=
  if s.markerPending then
    some (encodePacket s.cfg 0xC0 4 (le32 s.markerTick), { s with markerPending := false })
  else if s.cfg.slice ≤ s.fifoE.count then
    some (encodePacket s.cfg 0xB0 s.cfg.slice (s.dequeue .E s.cfg.slice).1, (s.dequeue .E s.cfg.slice).2)
  else if 20 ≤ s.fifoA.count then
    some (encodePacket s.cfg 0xA0 20 (s.dequeue .A 20).1, (s.dequeue .A 20).2)
  else if adcBusy then
    match s.cfg.busyPayload with
    | .analogPartial =>
      some (encodePacket s.cfg 0xD0 (s.dequeue .A 20).1.length (s.dequeue .A 20).1, (s.dequeue .A 20).2)
    | .nothing => some (encodePacket s.cfg 0xD0 0 [], s)
  else none

/-- TX_OPP (R114, R115): nothing while a packet is in flight; else the arbitration's packet is handed off. The encoder's
refusal and fault stand as R105 gives them, and R112 says they do not happen here. -/
def State.transmitOpportunity (s : State) (adcBusy linkOk : Bool) : State :=
  if s.txBusy then s.raise (.linkBusy .deferred)
  else
    match s.arbitrate adcBusy with
    | none => s
    | some (.packet pkt, s1) => s1.send pkt linkOk
    | some (.tooLarge len, s1) => s1.faultWith len
    | some (.badType, s1) => s1.refuse .badPacketType

/-- The packet the block would hand off at a transmit opportunity, if any (R114). -/
def State.nextPacket (s : State) (adcBusy : Bool) : Option Packet :=
  if s.txBusy then none
  else
    match s.arbitrate adcBusy with
    | some (.packet pkt, _) => some pkt
    | some (.tooLarge _, _) => none
    | some (.badType, _) => none
    | none => none

/-- The step that puts `pkt` on the transmit channel: the transmit opportunity that the link accepts and that hands off
exactly `pkt` (R106 to R109, R114, R118). A packet the block does not send in this state is refused (log 8). -/
def State.putOnChannel (s : State) (adcBusy : Bool) (pkt : Packet) : State :=
  if s.nextPacket adcBusy = some pkt then s.transmitOpportunity adcBusy true
  else s.refuse .packetNotProduced

/-! ## Power-on -/

/-- The twenty-one bytes of one free draw (R29, R150, I10; log 5). -/
def freePacket (draw : Nat) : Packet := (List.range 21).map (Config.freeTxByte draw)

/-- RST (R150): every element and the observation as R151 gives them; `tx_pkt` is a draw. The build and the
environment's stimulus are not the block's and stay. -/
def State.powerOn (s : State) : State where
  cfg := s.cfg
  fifoA := FifoState.empty
  fifoE := FifoState.empty
  run := .stopped
  cfgMode := .none
  adcEn := false
  edgeEn := false
  burst := .off
  markerPending := false
  markerTick := 0
  txBusy := false
  txPkt := freePacket s.draws
  rxArmed := true
  fault := none
  txlog := []
  caplog := [.receiveBytes 9]
  errlog := []
  refused := none
  resp := none
  stim := s.stim
  draws := s.draws + 1

/-! ## Delivering the next transaction -/

/-- The stimulus from its first segment that still holds bytes. -/
def skipEmpty : List Segment → List Segment
  | [] => []
  | seg :: segs => match seg.bytes with
    | [] => skipEmpty segs
    | _ :: _ => seg :: segs

/-- The stimulus after a transaction: the rest of its segment, if any, then the later segments. -/
def restOf (p : Port) (rest : List Byte) (segs : List Segment) : List Segment :=
  match rest with
  | [] => segs
  | b :: bs => ⟨p, b :: bs⟩ :: segs

/-- What the environment delivers next (log 1). -/
inductive Fetched where
  /-- Nothing is left: no agent takes a step. -/
  | idle
  /-- A transaction, and the stimulus after it. -/
  | instr (i : Instr) (stim : List Segment)
  /-- A reserved or malformed transaction on a port, and the stimulus after it. -/
  | rejected (p : Port) (r : RefuseReason) (stim : List Segment)
  /-- The stream ends inside a transaction. -/
  | truncated
  deriving DecidableEq, Repr

/-- Decode the first transaction of the stimulus (R65, R70). -/
def State.fetch (s : State) : Fetched :=
  match skipEmpty s.stim with
  | [] => .idle
  | seg :: segs =>
    match decode s.cfg seg.port seg.bytes with
    | .ok i rest => .instr i (restOf seg.port rest segs)
    | .rejected r rest => .rejected seg.port r (restOf seg.port rest segs)
    | .short => .truncated

/-- The step of a reserved or malformed transaction (R66, R67, R132; log 9). A request on the FIFO or encoder port that
is refused has no answer (log 6). -/
def State.refuseOn (s : State) (p : Port) (r : RefuseReason) : State :=
  match p with
  | .evt => s.refuse r
  | .fifo => (s.refuse r).respond none
  | .encoder => (s.refuse r).respond none
  | .component => (s.refuse r).respond none
  | .receive => s.refuse r
  | .transmit => s.refuse r

end Sys2Proof.Machine
end

