-- ==== Sys2Proof/Machine/Buffer.lean ====
section
/-! DEFINITION. The operations of the FIFO port (R72 to R77). -/

namespace Sys2Proof.Machine

/-- CLR (R72): no result. -/
def execClr (x : Fifo) (s : State) : Host.Outcome State Fault Refusal :=
  taken s fun s => (s.clearFifo x).respond none

/-- ENQ (R73): the result is `written`. -/
def execEnq (x : Fifo) (data : List Byte) (s : State) : Host.Outcome State Fault Refusal :=
  taken s fun s => (s.enqueue x data).2.respond (some (.written (s.enqueue x data).1))

/-- DEQ (R74): the result is `k` and `out`. -/
def execDeq (x : Fifo) (n : Nat) (s : State) : Host.Outcome State Fault Refusal :=
  taken s fun s => (s.dequeue x n).2.respond (some (.bytes (s.dequeue x n).1))

/-- EMPTY (R75). -/
def execEmpty (x : Fifo) (s : State) : Host.Outcome State Fault Refusal :=
  taken s fun s => s.respond (some (.bit (s.fifo x).isEmpty))

/-- FULL (R76). -/
def execFull (x : Fifo) (s : State) : Host.Outcome State Fault Refusal :=
  taken s fun s => s.respond (some (.bit ((s.fifo x).isFull (s.cap x))))

/-- LEN (R77). -/
def execLen (x : Fifo) (s : State) : Host.Outcome State Fault Refusal :=
  taken s fun s => s.respond (some (.length (s.fifo x).count))

end Sys2Proof.Machine
end

