-- ==== Sys2Proof/Machine/Command.lean ====
section
/-! DEFINITION. The mode controller: command reception and the commands (R92 to R98). -/

namespace Sys2Proof.Machine

/-- DoStop (R94). -/
def doStop (s : State) : State :=
  let s := s.emit .stopAnalogAcquisition
  let s := s.emit (.stopTimer s.cfg.burstTimerId)
  { s with adcEn := false, edgeEn := false, burst := .off, run := .stopped }

/-- Both FIFOs cleared and both drop counters zero, as START and RESET do first (R93, R95). -/
def clearBuffers (s : State) : State :=
  (((s.clearFifo .A).clearFifo .E).clearDrop .A).clearDrop .E

/-- DoReset (R95). -/
def doReset (s : State) : State :=
  { clearBuffers (doStop s) with markerPending := false, markerTick := 0 }

/-- DoStart (R93). With no style configured it starts nothing (R93 case a). -/
def doStart (tick : Tick) (s : State) : State :=
  let s := { clearBuffers s with markerPending := false }
  match s.cfgMode with
  | .triggered =>
    { s with adcEn := true, edgeEn := true, burst := .armed, markerTick := tick, markerPending := true, run := .running }
  | .continuous =>
    { ({ s with adcEn := true, edgeEn := true } : State).emit .startAnalogAcquisition with run := .running }
  | .none => s

/-- DoTrgmode (R96). -/
def doTrgmode (s : State) : State := doReset { s with cfgMode := .triggered }

/-- DoIntmode (R97). -/
def doIntmode (s : State) : State := doReset { s with cfgMode := .continuous }

/-- CMD_RX around a command's body: the receive path is re-armed after every frame (R92). -/
def commandStep (body : State → State) (s : State) : State :=
  { (body { s with rxArmed := false }).emit (.receiveBytes 9) with rxArmed := true }

/-- What a received frame does (R92, R65, R98). -/
def commandBody (frame : List Byte) (tick : Tick) (s : State) : State :=
  match decodeCommand frame with
  | some .start => doStart tick s
  | some .stop => doStop s
  | some .reset => doReset s
  | some .trgmode => doTrgmode s
  | some .intmode => doIntmode s
  | none => s.raise (.unrecognizedCommand frame)

/-- CMD_RX (R92). -/
def execCmdRx (frame : List Byte) (tick : Tick) (s : State) : Host.Outcome State Fault Refusal :=
  taken s (commandStep (commandBody frame tick))

/-- The frame `START____` received (R92, R93). -/
def execStart (tick : Tick) (s : State) : Host.Outcome State Fault Refusal := taken s (commandStep (doStart tick))

/-- The frame `STOP_____` received (R92, R94); its tick is not used (R104). -/
def execStop (_tick : Tick) (s : State) : Host.Outcome State Fault Refusal := taken s (commandStep doStop)

/-- The frame `RESET____` received (R92, R95). -/
def execReset (_tick : Tick) (s : State) : Host.Outcome State Fault Refusal := taken s (commandStep doReset)

/-- The frame `TRGMODE__` received (R92, R96). -/
def execTrgmode (_tick : Tick) (s : State) : Host.Outcome State Fault Refusal := taken s (commandStep doTrgmode)

/-- The frame `INTMODE__` received (R92, R97). -/
def execIntmode (_tick : Tick) (s : State) : Host.Outcome State Fault Refusal := taken s (commandStep doIntmode)

/-- Any other frame received (R92, R98). -/
def execCmdOther (frame : List Byte) (_tick : Tick) (s : State) : Host.Outcome State Fault Refusal :=
  taken s (commandStep fun s => s.raise (.unrecognizedCommand frame))

end Sys2Proof.Machine
end

