-- ==== Sys2Proof/Machine/Encoder.lean ====
section
/-! DEFINITION. The frame-encoder port (R105). -/

namespace Sys2Proof.Machine

/-- ENCODE's body on its port (R105, R129, R131): the packet, or a refusal of the type, or the fault; without a packet
the port gives no answer (log 6). -/
def encodeBody (ty : Byte) (len : BitVec 5) (payload : List Byte) (s : State) : State :=
  match encodePacket s.cfg ty len.toNat payload with
  | .packet pkt => s.respond (some (.packet pkt))
  | .badType => (s.refuse .badPacketType).respond none
  | .tooLarge n => (s.faultWith n).respond none

/-- ENCODE (R105). -/
def execEncodeReq (ty : Byte) (len : BitVec 5) (payload : List Byte) (s : State) : Host.Outcome State Fault Refusal :=
  taken s (encodeBody ty len payload)

end Sys2Proof.Machine
end

