-- ==== Sys2Proof/Machine/Producers.lean ====
section
/-! DEFINITION. The sample producers: ADC_DONE and EDGE (R83, R85). -/

namespace Sys2Proof.Machine

/-- ADC_DONE's body (R83): the length is checked before `adc_en` (R134); a disarmed producer's event is ignored (R90). -/
def adcDoneBody (block : List Byte) (s : State) : State :=
  if block.length ≠ s.cfg.analogChunk then s.refuse .badChunkLength
  else if s.adcEn then s.produce .A block
  else s

/-- The burst-timer request of the first accepted edge (R85, D46): made whether or not the record was dropped. -/
def startBurst (s : State) : State :=
  if s.cfgMode = .triggered ∧ s.burst = .armed then
    { s.emit (.startTimer s.cfg.burstTimerId) with burst := .running }
  else s

/-- EDGE's body (R85). -/
def edgeBody (tick : Tick) (pin : Bool) (s : State) : State :=
  if s.edgeEn then startBurst (s.produce .E (edgeRecord tick pin)) else s

/-- ADC_DONE (R83). -/
def execAdcDone (block : List Byte) (s : State) : Host.Outcome State Fault Refusal := taken s (adcDoneBody block)

/-- EDGE (R85). -/
def execEdge (tick : Tick) (pin : Bool) (s : State) : Host.Outcome State Fault Refusal := taken s (edgeBody tick pin)

end Sys2Proof.Machine
end

