-- ==== Sys2Proof/Machine/Reset.lean ====
section
/-! DEFINITION. The power-on reset. -/

namespace Sys2Proof.Machine

/-- RST (R150): also the only transaction a faulted block takes, as the start of a new run (R131). -/
def execRst (s : State) : Host.Outcome State Fault Refusal := .next s.powerOn

end Sys2Proof.Machine
end

