-- ==== Sys2Proof/Machine/Transmit.lean ====
section
/-! DEFINITION. The transmit sequencer: TX_OPP, TX_DONE, and the packets it puts on the transmit channel (R106 to R109,
R114 to R122). -/

namespace Sys2Proof.Machine

/-- TX_OPP (R114). -/
def execTxOpp (adcBusy linkOk : Bool) (s : State) : Host.Outcome State Fault Refusal :=
  taken s fun s => s.transmitOpportunity adcBusy linkOk

/-- TX_DONE's body (R122): a notification with nothing in flight is ignored. -/
def txDoneBody (s : State) : State := if s.txBusy then { s with txBusy := false } else s

/-- TX_DONE (R122). -/
def execTxDone (s : State) : Host.Outcome State Fault Refusal := taken s txDoneBody

/-- An analog packet goes out (R106, R114 step 2). -/
def execPktAnalog (payload : List Byte) (s : State) : Host.Outcome State Fault Refusal :=
  taken s fun s => s.putOnChannel false (0xA0 :: payload)

/-- An edge packet goes out (R107, R114 step 1). -/
def execPktEdge (payload : List Byte) (s : State) : Host.Outcome State Fault Refusal :=
  taken s fun s => s.putOnChannel false (0xB0 :: payload)

/-- A start-marker packet goes out (R108, R116). -/
def execPktStart (payload : List Byte) (s : State) : Host.Outcome State Fault Refusal :=
  taken s fun s => s.putOnChannel false (0xC0 :: payload)

/-- A busy packet goes out, which takes a conversion in progress (R109, R117). -/
def execPktBusy (payload : List Byte) (s : State) : Host.Outcome State Fault Refusal :=
  taken s fun s => s.putOnChannel true (0xD0 :: payload)

end Sys2Proof.Machine
end

