-- ==== Sys2Proof/Machine/Dispatch.lean ====
section
/-! DEFINITION. The dispatch: one arm per transaction. -/

namespace Sys2Proof.Machine

def exec (i : Instr) (s : State) : Host.Outcome State Fault Refusal :=
  match i with
  | .rst => Sys2Proof.Machine.execRst s
  | .adcDone block => Sys2Proof.Machine.execAdcDone block s
  | .edge tick pin => Sys2Proof.Machine.execEdge tick pin s
  | .cmdRx frame tick => Sys2Proof.Machine.execCmdRx frame tick s
  | .txOpp adcBusy linkOk => Sys2Proof.Machine.execTxOpp adcBusy linkOk s
  | .txDone => Sys2Proof.Machine.execTxDone s
  | .clr x => Sys2Proof.Machine.execClr x s
  | .enq x data => Sys2Proof.Machine.execEnq x data s
  | .deq x n => Sys2Proof.Machine.execDeq x n s
  | .empty x => Sys2Proof.Machine.execEmpty x s
  | .full x => Sys2Proof.Machine.execFull x s
  | .len x => Sys2Proof.Machine.execLen x s
  | .start tick => Sys2Proof.Machine.execStart tick s
  | .stop tick => Sys2Proof.Machine.execStop tick s
  | .reset tick => Sys2Proof.Machine.execReset tick s
  | .trgmode tick => Sys2Proof.Machine.execTrgmode tick s
  | .intmode tick => Sys2Proof.Machine.execIntmode tick s
  | .cmdOther frame tick => Sys2Proof.Machine.execCmdOther frame tick s
  | .pktAnalog payload => Sys2Proof.Machine.execPktAnalog payload s
  | .pktEdge payload => Sys2Proof.Machine.execPktEdge payload s
  | .pktStart payload => Sys2Proof.Machine.execPktStart payload s
  | .pktBusy payload => Sys2Proof.Machine.execPktBusy payload s
  | .encodeReq ty len payload => Sys2Proof.Machine.execEncodeReq ty len payload s

end Sys2Proof.Machine
end

