-- ==== Sys2Proof/Machine/Step.lean ====
section
/-! DEFINITION. One step: the next transaction the environment delivers, performed atomically (R47). -/

namespace Sys2Proof.Machine

/-- One atomic step (R47). With nothing left to deliver no agent takes a step and nothing changes (log 1); a reserved
or malformed transaction is refused (R132), and a faulted block takes no transaction (R131). -/
def step (s : State) : Host.Outcome State Fault Refusal :=
  match s.fetch with
  | .idle => .next s
  | .instr i stim => exec i { s with stim := stim }
  | .rejected p r stim => taken { s with stim := stim } fun s => s.refuseOn p r
  | .truncated => .fault .truncatedTransaction

/-- The state with the transaction of an opcode-table word delivered next (log 14). -/
def State.withFetchWord (s : State) (nbits w : Nat) : State :=
  { s with stim := tableSegment s.cfg nbits w :: s.stim }

end Sys2Proof.Machine
end

