-- ==== Sys2Proof/Safety.lean ====
section
/-! DEFINITION. What claims are stated in: the bytes a FIFO holds, the invariant of the block (R17, R18, R23, R30, R158),
and what a successful run is (R155). -/

namespace Sys2Proof.Machine

/-- The live region of FIFO `X` in FIFO order (00_scope.md section 6): the bytes enqueued and not yet dequeued. -/
def State.live (s : State) (x : Fifo) : List Byte :=
  loadBytes (s.cap x) (s.fifo x).buf (s.fifo x).tail (s.fifo x).count

/-- The byte that FIFO `X`'s storage holds at an index (R38). -/
def State.cell (s : State) (x : Fifo) (a : Nat) : Byte := Memory.read (s.fifo x).buf a

/-- The FIFO invariant (R17, R18), with the canonical form of its storage. -/
structure FifoState.Ok (cap : Nat) (f : FifoState) : Prop where
  /-- The storage is in canonical form. -/
  bufWf : Memory.wf f.buf = true
  /-- The storage lists only cells of the array (R38). -/
  bufWithin : Memory.within cap f.buf = true
  /-- "`head` and `tail` are always `< capacity`" (R17). -/
  headLt : f.head < cap
  tailLt : f.tail < cap
  /-- "`0 ≤ count ≤ capacity`" (R17). -/
  countLe : f.count ≤ cap
  /-- R18. -/
  headEq : f.head = (f.tail + f.count) % cap

/-- A packet is 21 bytes and its first is one of the four types (R58, 95_test_vectors.md section 3). -/
def packetOk (pkt : Packet) : Prop := pkt.length = 21 ∧ ∃ ty payload, pkt = ty :: payload ∧ isPacketType ty = true

/-- The invariant of the block. -/
structure State.Inv (s : State) : Prop where
  /-- R17, R18 for both FIFOs. -/
  fifos : ∀ x, (s.fifo x).Ok (s.cap x)
  /-- The producers are armed exactly while the block runs (R25, R26, R93, R94). -/
  adcArmed : s.adcEn = true ↔ s.run = .running
  edgeArmed : s.edgeEn = true ↔ s.run = .running
  /-- R23, first sentence. -/
  runMode : s.run = .running → s.cfgMode ≠ .none
  /-- R23, second sentence. -/
  continuousBurst : s.cfgMode = .continuous → s.burst = .off
  /-- The burst timer is armed or running only in a triggered run (R27, R93, R94). -/
  burstRun : s.burst ≠ .off → s.run = .running ∧ s.cfgMode = .triggered
  /-- A marker waits only in the triggered style (R28, R93, R95). -/
  markerMode : s.markerPending = true → s.cfgMode = .triggered
  /-- R30: 1 at every step boundary. -/
  rxArmed : s.rxArmed = true
  /-- `tx_pkt` is a 21-byte register (R29). -/
  txPktLen : s.txPkt.length = 21
  /-- Every packet the link accepted is a packet (R58). -/
  packets : ∀ p ∈ s.txlog, packetOk p
  /-- The packet in flight is the last one the link accepted (R158). -/
  inFlight : s.txBusy = true → s.txlog.getLast? = some s.txPkt
  /-- A fault is PayloadTooLarge of a length from 21 to 31, and its entry is the last of `errlog` (R129, R131). -/
  faultLast : ∀ n, s.fault = some (.payloadTooLarge n) →
    20 < n ∧ n < 32 ∧ s.errlog.getLast? = some (.payloadTooLarge n)

/-- The block's part of a run is successful as long as there is no fault and no refusal (R155). -/
def State.Successful (s : State) : Prop := s.fault = none ∧ s.refused = none

/-! ## Packets on the transmit channel -/

/-- A PKT21: the type byte, the payload, `FILL` up to 20 payload bytes (R58, R64). -/
def paddedPacket (c : Config) (ty : Byte) (payload : List Byte) : Packet :=
  [ty] ++ payload ++ List.replicate (20 - payload.length) c.fill

/-- The state after the link has taken `pkt` (R118). -/
def State.afterAccepted (s : State) (pkt : Packet) : State :=
  { s with
    caplog := s.caplog ++ [.transmitBytes pkt 21]
    txPkt := pkt
    txBusy := true
    txlog := s.txlog ++ [pkt] }

/-- The state after the link has rejected `pkt` (R118): the packet is not kept. -/
def State.afterLost (s : State) (pkt : Packet) : State :=
  { s with
    caplog := s.caplog ++ [.transmitBytes pkt 21]
    errlog := s.errlog ++ [.linkBusy .lost] }

/-- The state after a hand-off (R118). -/
def State.afterHandOff (s : State) (pkt : Packet) (linkOk : Bool) : State :=
  if linkOk then s.afterAccepted pkt else s.afterLost pkt

/-- A FIFO whose first `k` bytes have been taken (R74). -/
def FifoState.without (f : FifoState) (cap k : Nat) : FifoState :=
  { f with tail := (f.tail + k) % cap, count := f.count - k }

/-! ## Sequences of transactions -/

/-- The state after a sequence of transactions, if every one answers a next state (R47). -/
def runAll : List Instr → State → Option State
  | [], s => some s
  | i :: is, s =>
    match exec i s with
    | .next t => runAll is t
    | .fault _ => none
    | .refused _ => none

/-- A sequence of ENQ (`inl data`) and DEQ (`inr n`) requests on FIFO `x`: the data of the accepted ENQs, the bytes the
DEQs answer, each concatenated in order, and the last state (R80). -/
def fifoRun (x : Fifo) : List (List Byte ⊕ Nat) → State → Option (List Byte × List Byte × State)
  | [], s => some ([], [], s)
  | .inl data :: ops, s =>
    match exec (.enq x data) s with
    | .next t => (fifoRun x ops t).map fun r =>
        ((if t.resp = some (.written data.length) then data else []) ++ r.1, r.2.1, r.2.2)
    | .fault _ => none
    | .refused _ => none
  | .inr n :: ops, s =>
    match exec (.deq x n) s with
    | .next t => (fifoRun x ops t).map fun r =>
        (r.1, (match t.resp with | some (.bytes out) => out | _ => []) ++ r.2.1, r.2.2)
    | .fault _ => none
    | .refused _ => none

/-- The transactions that receive a command frame (R92). -/
def isCommand : Instr → Bool
  | .cmdRx _ _ => true
  | .start _ => true
  | .stop _ => true
  | .reset _ => true
  | .trgmode _ => true
  | .intmode _ => true
  | .cmdOther _ _ => true
  | .rst => false
  | .adcDone _ => false
  | .edge _ _ => false
  | .txOpp _ _ => false
  | .txDone => false
  | .clr _ => false
  | .enq _ _ => false
  | .deq _ _ => false
  | .empty _ => false
  | .full _ => false
  | .len _ => false
  | .pktAnalog _ => false
  | .pktEdge _ => false
  | .pktStart _ => false
  | .pktBusy _ => false
  | .encodeReq _ _ _ => false

end Sys2Proof.Machine
end

