-- ==== Sys2Proof/WellFormed.lean ====
section
/-! DEFINITION. Which instructions are well formed: the sizes the formats fix (R55, R57, R58, R62, R63). -/

namespace Sys2Proof

/-- The checks a well-formed instruction meets in a build `c`: a chunk is `ANALOG_CHUNK` bytes and a frame 9 (R63), a
count fits in `LEN_W` bits (R63), the unrecognized command is none of the five tokens (R65), a packet's payload and an
encoder request's payload are 20 bytes (R57, R58). -/
def Instr.wf (c : Config) : Instr → Bool
  | .rst => true
  | .adcDone block => decide (block.length = c.analogChunk)
  | .edge _ _ => true
  | .cmdRx frame _ => decide (frame.length = 9)
  | .txOpp _ _ => true
  | .txDone => true
  | .clr _ => true
  | .enq _ data => decide (data.length < 2 ^ c.lenW)
  | .deq _ n => decide (n < 2 ^ c.lenW)
  | .empty _ => true
  | .full _ => true
  | .len _ => true
  | .start _ => true
  | .stop _ => true
  | .reset _ => true
  | .trgmode _ => true
  | .intmode _ => true
  | .cmdOther frame _ => decide (frame.length = 9) && decide (decodeCommand frame = none)
  | .pktAnalog payload => decide (payload.length = 20)
  | .pktEdge payload => decide (payload.length = 20)
  | .pktStart payload => decide (payload.length = 20)
  | .pktBusy payload => decide (payload.length = 20)
  | .encodeReq _ _ payload => decide (payload.length = 20)

end Sys2Proof
end

