-- ==== Sys2Proof/Certificates/Slice0/Obligations.lean ====
section
/-! DEFINITION. The statements for the provers. Each docstring names the rule it states. -/

open Sys2Proof Sys2Proof.Machine

/-! ## Encoding -/

/-- R55, R56, R57, R58, R62, R65, R70: decoding the bytes of a well-formed instruction gives it back, whatever follows,
on its own port and on the port of a component program. The receive and transmit ports, the carrier of a count and how a
component program's requests are told apart are the model's (log 7, log 8, log 11, log 20). -/
def Obligations.DecodeReadsEveryEncoding : Prop :=
  ∀ (c : Config) (i : Instr) (rest : List Byte), i.wf c = true → carries (portOf i) i = true ∧
    ∀ p, carries p i = true → decode c p (encode c i ++ rest) = .ok i rest

/-- The other direction: whatever decodes is well formed, is a line of the port it is read on, and its bytes are its
encoding, so every byte string has one meaning (log 7, log 8, log 11, log 20). -/
def Obligations.DecodedBytesAreTheEncoding : Prop :=
  ∀ (c : Config) (p : Port) (bs rest : List Byte) (i : Instr), decode c p bs = .ok i rest →
    i.wf c = true ∧ carries p i = true ∧ encode c i ++ rest = bs

/-- Words written out from 30_encoding.md (R55, R56, R57, R62) decode to the instructions they stand for. The receive
port of the command row is the model's (log 7), the ASCII values are presumed (log 15). -/
def Obligations.SpelledOutWordsDecode : Prop :=
  decode Config.ref .evt [0x02, 0x04, 0x03, 0x02, 0x01, 0x01] = .ok (.edge 0x01020304 true) [] ∧
  decode Config.ref .evt [0x04, 0x01] = .ok (.txOpp true false) [] ∧
  decode Config.ref .fifo [0x82, 0x05] = .ok (.deq .E 5) [] ∧
  decode Config.ref .receive [0x54, 0x52, 0x47, 0x4D, 0x4F, 0x44, 0x45, 0x5F, 0x5F, 0x00, 0x01, 0x00, 0x00] =
    .ok (.trgmode 0x100) [] ∧
  decode Config.ref .encoder (0x18 :: 0x04 :: List.replicate 20 0x00) = .ok (.encodeReq 0xC0 4 (List.replicate 20 0x00)) []

/-- R65, R92: a CMD_RX does what the row of its frame does: one of the five tokens, byte for byte, or the unrecognized
command. The ASCII values of the tokens are presumed (log 15). -/
def Obligations.CmdRxDoesItsFramesCommand : Prop :=
  ∀ (frame : List Byte) (tick : Tick) (s : State), exec (.cmdRx frame tick) s =
    if frame = [0x53, 0x54, 0x41, 0x52, 0x54, 0x5F, 0x5F, 0x5F, 0x5F] then exec (.start tick) s
    else if frame = [0x53, 0x54, 0x4F, 0x50, 0x5F, 0x5F, 0x5F, 0x5F, 0x5F] then exec (.stop tick) s
    else if frame = [0x52, 0x45, 0x53, 0x45, 0x54, 0x5F, 0x5F, 0x5F, 0x5F] then exec (.reset tick) s
    else if frame = [0x54, 0x52, 0x47, 0x4D, 0x4F, 0x44, 0x45, 0x5F, 0x5F] then exec (.trgmode tick) s
    else if frame = [0x49, 0x4E, 0x54, 0x4D, 0x4F, 0x44, 0x45, 0x5F, 0x5F] then exec (.intmode tick) s
    else exec (.cmdOther frame tick) s

/-! ## Steps -/

/-- A step runs the decoded instruction, in the state whose stimulus is what follows its bytes (R47, R65, R70; the
stimulus is the model's, log 1). -/
def Obligations.StepRunsTheDecodedInstruction : Prop :=
  ∀ (s : State) (p : Port) (bs rest : List Byte) (segs : List Segment) (i : Instr),
    s.stim = ⟨p, bs⟩ :: segs → decode s.cfg p bs = .ok i rest → i.wf s.cfg = true →
    step s = exec i { s with stim := if rest = [] then segs else ⟨p, rest⟩ :: segs }

/-- R66, R67, R132 (the bytes taken and the next state are the model's, log 9): a reserved code byte of the block port,
the FIFO port or a component program's port (there from 0x20, log 20), a bad pin byte and a bad TX_OPP operand byte set the mark, if it is not set yet, and change nothing
else of the block. -/
def Obligations.ReservedTransactionsAreRefused : Prop :=
  ∀ (s : State) (b : Byte) (rest : List Byte) (segs : List Segment), s.fault = none →
    (6 ≤ b.toNat → s.stim = ⟨.evt, b :: rest⟩ :: segs →
      step s = .next { s with stim := restOf .evt rest segs, refused := s.refused.or (some .reservedCode) }) ∧
    (6 ≤ b.toNat % 128 → s.stim = ⟨.fifo, b :: rest⟩ :: segs →
      step s = .next { s with stim := restOf .fifo rest segs, refused := s.refused.or (some .reservedCode), resp := none }) ∧
    (32 ≤ b.toNat → 6 ≤ b.toNat % 128 → s.stim = ⟨.component, b :: rest⟩ :: segs →
      step s = .next { s with stim := restOf .component rest segs, refused := s.refused.or (some .reservedCode), resp := none }) ∧
    (2 ≤ b.toNat → ∀ t0 t1 t2 t3, s.stim = ⟨.evt, 0x02 :: t0 :: t1 :: t2 :: t3 :: b :: rest⟩ :: segs →
      step s = .next { s with stim := restOf .evt rest segs, refused := s.refused.or (some .badPin) }) ∧
    (4 ≤ b.toNat → s.stim = ⟨.evt, 0x04 :: b :: rest⟩ :: segs →
      step s = .next { s with stim := restOf .evt rest segs, refused := s.refused.or (some .badTxOppBits) })

/-- R31, R131 (the unchanged next state is the model's reading of "not taken", log 10): a faulted block takes no
transaction but RST. -/
def Obligations.FaultedBlockTakesNoTransaction : Prop :=
  ∀ (i : Instr) (s : State), s.fault ≠ none → i ≠ .rst → exec i s = .next s

/-- R129: "It is the only fault of this block", raised by ENCODE's port alone, for lengths above 20 (R112). -/
def Obligations.OnlyTheEncoderPortFaults : Prop :=
  ∀ (i : Instr) (s t : State), exec i s = .next t → s.fault = none → t.fault ≠ none →
    ∃ ty len payload, i = .encodeReq ty len payload ∧ isPacketType ty = true ∧ 20 < len.toNat ∧
      t.fault = some (.payloadTooLarge len.toNat)

/-- R34: the logs only grow and a set mark stays, until a power-on reset. -/
def Obligations.ObservationOnlyGrows : Prop :=
  ∀ (i : Instr) (s t : State), exec i s = .next t → i ≠ .rst →
    s.txlog <+: t.txlog ∧ s.caplog <+: t.caplog ∧ s.errlog <+: t.errlog ∧
      (∀ r, s.refused = some r → t.refused = some r)

/-- R35: the parameters are no state: no step changes them (the field is the model's, log 2). -/
def Obligations.NoStepChangesTheBuild : Prop :=
  ∀ (s t : State), step s = .next t → t.cfg = s.cfg

/-! ## Reset -/

/-- R150, R151: what reset leaves, but for `tx_pkt`, which has no reset value. -/
def Obligations.ResetLeavesTheStatedValues : Prop :=
  (∀ x, (State.reset.fifo x).head = 0 ∧ (State.reset.fifo x).tail = 0 ∧ (State.reset.fifo x).count = 0 ∧
    (State.reset.fifo x).drop = 0 ∧ ∀ a, State.reset.cell x a = 0x00) ∧
  State.reset.run = .stopped ∧ State.reset.cfgMode = .none ∧ State.reset.adcEn = false ∧ State.reset.edgeEn = false ∧
  State.reset.burst = .off ∧ State.reset.markerPending = false ∧ State.reset.markerTick = 0 ∧
  State.reset.txBusy = false ∧ State.reset.rxArmed = true ∧ State.reset.fault = none ∧
  State.reset.txlog = [] ∧ State.reset.caplog = [.receiveBytes 9] ∧ State.reset.errlog = [] ∧ State.reset.refused = none ∧
  State.reset.status = 0x0200

/-- R150: RST from any state, a faulted one too, is a new run; `tx_pkt` is some 21 bytes, the build and the
environment's stimulus stay. -/
def Obligations.RstStartsANewRun : Prop :=
  ∀ s : State, ∃ t, exec .rst s = .next t ∧
    (∀ x, (t.fifo x).head = 0 ∧ (t.fifo x).tail = 0 ∧ (t.fifo x).count = 0 ∧ (t.fifo x).drop = 0 ∧
      (∀ a, t.cell x a = 0x00) ∧ (t.fifo x).isEmpty = true ∧ (t.fifo x).isFull (t.cap x) = false) ∧
    t.run = .stopped ∧ t.cfgMode = .none ∧ t.adcEn = false ∧ t.edgeEn = false ∧ t.burst = .off ∧
    t.markerPending = false ∧ t.markerTick = 0 ∧ t.txBusy = false ∧ t.txPkt.length = 21 ∧ t.rxArmed = true ∧
    t.fault = none ∧ t.txlog = [] ∧ t.caplog = [.receiveBytes 9] ∧ t.errlog = [] ∧ t.refused = none ∧
    t.status = 0x0200 ∧ t.cfg = s.cfg ∧ t.stim = s.stim

/-! ## The FIFO port -/

/-- R72: CLR, the code `s0000000`, empties FIFO `X` and zeroes its storage; the drop counter and all else stay. -/
def Obligations.ClrEmptiesTheFifo : Prop :=
  ∀ (s : State) (x : Fifo), s.fault = none → ∃ buf : Memory,
    exec (.clr x) s = .next { s.setFifo x { buf := buf, head := 0, tail := 0, count := 0, drop := (s.fifo x).drop } with
      resp := none } ∧
    (∀ a, Memory.read buf a = 0x00) ∧ encode s.cfg (.clr x) = [match x with | .A => 0x00 | .E => 0x80]

/-- R73, R78: an ENQ that fits stores its bytes at `(head + i) mod CAP`, changes no other cell, and moves `head` and
`count` alone. -/
def Obligations.EnqStoresEveryByte : Prop :=
  ∀ (s : State) (x : Fifo) (data : List Byte), s.fault = none → Memory.wf (s.fifo x).buf = true →
    (s.fifo x).count + data.length ≤ s.cap x → ∃ buf : Memory,
    exec (.enq x data) s = .next { s.setFifo x { s.fifo x with
      buf := buf
      head := ((s.fifo x).head + data.length) % s.cap x
      count := (s.fifo x).count + data.length } with resp := some (.written data.length) } ∧
    (∀ i (h : i < data.length), Memory.read buf (((s.fifo x).head + i) % s.cap x) = data[i]) ∧
    (∀ a, (∀ i < data.length, a ≠ ((s.fifo x).head + i) % s.cap x) → Memory.read buf a = s.cell x a)

/-- R81, R73, R127: an ENQ that does not fit writes nothing, answers 0 and raises BufferOverflow; any ENQ answers 0 or
its length, and one that answers 0 leaves the FIFO as it was. -/
def Obligations.EnqIsAllOrNothing : Prop :=
  ∀ (s : State) (x : Fifo) (data : List Byte), s.fault = none →
    (s.cap x < (s.fifo x).count + data.length → exec (.enq x data) s = .next { s with
      errlog := s.errlog ++ [.bufferOverflow x data.length (s.fifo x).count]
      resp := some (.written 0) }) ∧
    ∃ t w, exec (.enq x data) s = .next t ∧ t.resp = some (.written w) ∧ (w = 0 ∨ w = data.length) ∧
      (w = 0 → 1 ≤ data.length → t.fifo x = s.fifo x)

/-- R74, R78: DEQ answers `k = min(n, count)` bytes from `(tail + i) mod CAP`, moves `tail` and `count` alone, and
writes no storage. -/
def Obligations.DeqTakesFromTheTail : Prop :=
  ∀ (s : State) (x : Fifo) (n : Nat), s.fault = none → ∃ out : List Byte,
    exec (.deq x n) s = .next { s.setFifo x { s.fifo x with
      tail := ((s.fifo x).tail + min n (s.fifo x).count) % s.cap x
      count := (s.fifo x).count - min n (s.fifo x).count } with resp := some (.bytes out) } ∧
    out.length = min n (s.fifo x).count ∧
    (∀ i (h : i < out.length), out[i] = s.cell x (((s.fifo x).tail + i) % s.cap x))

/-- R75, R76, R77: EMPTY, FULL and LEN, the codes `s0000011`, `s0000100` and `s0000101`, answer from `count_X` and
change nothing else; a count in `0 .. CAP_X` fits `CW_X` bits. -/
def Obligations.QueriesAnswerFromCount : Prop :=
  ∀ (s : State) (x : Fifo), s.fault = none →
    exec (.empty x) s = .next { s with resp := some (.bit (decide ((s.fifo x).count = 0))) } ∧
    exec (.full x) s = .next { s with resp := some (.bit (decide ((s.fifo x).count = s.cap x))) } ∧
    exec (.len x) s = .next { s with resp := some (.length (s.fifo x).count) } ∧
    ((s.fifo x).count ≤ s.cap x → (s.fifo x).count < 2 ^ (Nat.log2 (s.cap x) + 1)) ∧
    encode s.cfg (.empty x) = [match x with | .A => 0x03 | .E => 0x83] ∧
    encode s.cfg (.full x) = [match x with | .A => 0x04 | .E => 0x84] ∧
    encode s.cfg (.len x) = [match x with | .A => 0x05 | .E => 0x85]

/-- R80: over any interleaving of ENQ and DEQ on one FIFO, the bytes answered, then the bytes still held, are the bytes
held at the start, then the accepted data, in order. -/
def Obligations.FifoOrderLaw : Prop :=
  ∀ (x : Fifo) (ops : List (List Byte ⊕ Nat)) (s : State), s.fault = none → (s.fifo x).Ok (s.cap x) →
    ∃ acc out t, fifoRun x ops s = some (acc, out, t) ∧ out ++ t.live x = s.live x ++ acc

/-! ## The producers -/

/-- R83: an armed ADC_DONE with room appends its chunk to FIFO `A`, and stores nowhere else. -/
def Obligations.AdcDoneAppendsItsChunk : Prop :=
  ∀ (s : State) (block : List Byte), s.fault = none → (s.fifoA).Ok (s.cap .A) → s.adcEn = true →
    block.length = s.cfg.analogChunk → s.fifoA.count + s.cfg.analogChunk ≤ s.cap .A → ∃ buf : Memory,
    exec (.adcDone block) s = .next { s with fifoA := { s.fifoA with
      buf := buf
      head := (s.fifoA.head + s.cfg.analogChunk) % s.cap .A
      count := s.fifoA.count + s.cfg.analogChunk } } ∧
    loadBytes (s.cap .A) buf s.fifoA.tail (s.fifoA.count + s.cfg.analogChunk) = s.live .A ++ block ∧
    (∀ a, (∀ i < s.cfg.analogChunk, a ≠ (s.fifoA.head + i) % s.cap .A) → Memory.read buf a = s.cell .A a)

/-- R83, R88, R127: an armed ADC_DONE without room loses its chunk, counts the drop and raises BufferOverflow. -/
def Obligations.AdcDoneWithoutRoomDrops : Prop :=
  ∀ (s : State) (block : List Byte), s.fault = none → s.adcEn = true → block.length = s.cfg.analogChunk →
    s.cap .A < s.fifoA.count + s.cfg.analogChunk →
    exec (.adcDone block) s = .next { s with
      fifoA := { s.fifoA with drop := s.fifoA.drop + 1 }
      errlog := s.errlog ++ [.bufferOverflow .A s.cfg.analogChunk s.fifoA.count] }

/-- R67, R83, R134: a chunk of the wrong length is refused before `adc_en` is looked at. -/
def Obligations.BadChunkIsRefused : Prop :=
  ∀ (s : State) (block : List Byte), s.fault = none → block.length ≠ s.cfg.analogChunk →
    exec (.adcDone block) s = .next { s with refused := s.refused.or (some .badChunkLength) }

/-- R85, R60: an armed EDGE with room appends its 5-byte record to FIFO `E`, and the first one of a triggered run
requests the burst timer. -/
def Obligations.EdgeAppendsItsRecord : Prop :=
  ∀ (s : State) (tick : Tick) (pin : Bool), s.fault = none → (s.fifoE).Ok (s.cap .E) → s.edgeEn = true →
    s.fifoE.count + 5 ≤ s.cap .E → ∃ buf : Memory,
    exec (.edge tick pin) s = .next { s with
      fifoE := { s.fifoE with
        buf := buf
        head := (s.fifoE.head + 5) % s.cap .E
        count := s.fifoE.count + 5 }
      burst := if s.cfgMode = .triggered ∧ s.burst = .armed then .running else s.burst
      caplog := s.caplog ++
        (if s.cfgMode = .triggered ∧ s.burst = .armed then [.startTimer s.cfg.burstTimerId] else []) } ∧
    loadBytes (s.cap .E) buf s.fifoE.tail (s.fifoE.count + 5) =
      s.live .E ++ [tick.extractLsb' 0 8, tick.extractLsb' 8 8, tick.extractLsb' 16 8, tick.extractLsb' 24 8,
        if pin then 0x01 else 0x00] ∧
    (∀ a, (∀ i < 5, a ≠ (s.fifoE.head + i) % s.cap .E) → Memory.read buf a = s.cell .E a)

/-- R85 (case a), R127: an armed EDGE without room loses its record and counts the drop, and still requests the timer. -/
def Obligations.EdgeWithoutRoomDrops : Prop :=
  ∀ (s : State) (tick : Tick) (pin : Bool), s.fault = none → s.edgeEn = true → s.cap .E < s.fifoE.count + 5 →
    exec (.edge tick pin) s = .next { s with
      fifoE := { s.fifoE with drop := s.fifoE.drop + 1 }
      errlog := s.errlog ++ [.bufferOverflow .E 5 s.fifoE.count]
      burst := if s.cfgMode = .triggered ∧ s.burst = .armed then .running else s.burst
      caplog := s.caplog ++
        (if s.cfgMode = .triggered ∧ s.burst = .armed then [.startTimer s.cfg.burstTimerId] else []) }

/-- R86: an edge record decodes back to its event without loss. -/
def Obligations.EdgeRecordDecodesBack : Prop :=
  ∀ (tick : Tick) (pin : Bool), ∃ b0 b1 b2 b3 st : Byte, edgeRecord tick pin = [b0, b1, b2, b3, st] ∧
    tick = b0.setWidth 32 ||| (b1.setWidth 32 <<< 8) ||| (b2.setWidth 32 <<< 16) ||| (b3.setWidth 32 <<< 24) ∧
    st = (if pin then 0x01 else 0x00) ∧ readEdgeRecord [b0, b1, b2, b3, st] = some (tick, st) ∧
    edgeRecord 0x01020304 true = [0x04, 0x03, 0x02, 0x01, 0x01]

/-- R133: the ignored events change nothing; an unrecognized command frame is not one of them. -/
def Obligations.IgnoredEventsChangeNothing : Prop :=
  ∀ (s : State), s.fault = none →
    (∀ block, s.adcEn = false → block.length = s.cfg.analogChunk → exec (.adcDone block) s = .next s) ∧
    (∀ tick pin, s.edgeEn = false → exec (.edge tick pin) s = .next s) ∧
    (s.txBusy = false → exec .txDone s = .next s) ∧
    (∀ linkOk, s.txBusy = false → s.markerPending = false → s.fifoE.count < s.cfg.slice → s.fifoA.count < 20 →
      exec (.txOpp false linkOk) s = .next s) ∧
    (∀ frame tick, decodeCommand frame = none → ∃ t, exec (.cmdRx frame tick) s = .next t ∧
      t.errlog = s.errlog ++ [.unrecognizedCommand frame] ∧ t.rxArmed = true)

/-! ## The commands -/

/-- R93 in the triggered style, with R92's re-arm. -/
def Obligations.StartTriggeredArmsTheRun : Prop :=
  ∀ (s : State) (tick : Tick), s.fault = none → s.cfgMode = .triggered →
    exec (.start tick) s = .next { s with
      fifoA := FifoState.empty, fifoE := FifoState.empty
      run := .running, adcEn := true, edgeEn := true, burst := .armed
      markerPending := true, markerTick := tick
      caplog := s.caplog ++ [.receiveBytes 9], rxArmed := true }

/-- R93 in the continuous style, with R92's re-arm. -/
def Obligations.StartContinuousStartsTheConverter : Prop :=
  ∀ (s : State) (tick : Tick), s.fault = none → s.cfgMode = .continuous →
    exec (.start tick) s = .next { s with
      fifoA := FifoState.empty, fifoE := FifoState.empty
      run := .running, adcEn := true, edgeEn := true, markerPending := false
      caplog := s.caplog ++ [.startAnalogAcquisition, .receiveBytes 9], rxArmed := true }

/-- R93 (case a): START before any mode command clears and starts nothing. -/
def Obligations.StartWithoutStyleOnlyClears : Prop :=
  ∀ (s : State) (tick : Tick), s.fault = none → s.cfgMode = .none →
    exec (.start tick) s = .next { s with
      fifoA := FifoState.empty, fifoE := FifoState.empty, markerPending := false
      caplog := s.caplog ++ [.receiveBytes 9], rxArmed := true }

/-- R94: STOP stops producers and timers and leaves the FIFOs, the drop counters, the style, the marker and the packet
in flight; R92's re-arm follows. -/
def Obligations.StopLeavesTheBuffers : Prop :=
  ∀ (s : State) (tick : Tick), s.fault = none →
    exec (.stop tick) s = .next { s with
      run := .stopped, adcEn := false, edgeEn := false, burst := .off
      caplog := s.caplog ++ [.stopAnalogAcquisition, .stopTimer s.cfg.burstTimerId, .receiveBytes 9], rxArmed := true }

/-- R95, R96, R97: RESET stops and zeroes; TRGMODE and INTMODE set the style and do the same; R92's re-arm follows. -/
def Obligations.ResetTrgmodeIntmodeClear : Prop :=
  ∀ (s : State) (tick : Tick), s.fault = none →
    let cleared : State := { s with
      fifoA := FifoState.empty, fifoE := FifoState.empty
      run := .stopped, adcEn := false, edgeEn := false, burst := .off, markerPending := false, markerTick := 0
      caplog := s.caplog ++ [.stopAnalogAcquisition, .stopTimer s.cfg.burstTimerId, .receiveBytes 9], rxArmed := true }
    exec (.reset tick) s = .next cleared ∧
    exec (.trgmode tick) s = .next { cleared with cfgMode := .triggered } ∧
    exec (.intmode tick) s = .next { cleared with cfgMode := .continuous }

/-- R98: a frame that is no token is recorded and re-arms the receive path, nothing else. CMD_RX and the row of the
unrecognized command do the same. -/
def Obligations.UnrecognizedFrameOnlyRearms : Prop :=
  ∀ (s : State) (frame : List Byte) (tick : Tick), s.fault = none → decodeCommand frame = none →
    let t : State := { s with
      errlog := s.errlog ++ [.unrecognizedCommand frame], caplog := s.caplog ++ [.receiveBytes 9], rxArmed := true }
    exec (.cmdOther frame tick) s = .next t ∧ exec (.cmdRx frame tick) s = .next t

/-- R92: CMD_RX of any frame answers a next state whose receive path is armed and whose last
request is the re-arm. -/
def Obligations.CmdRxAlwaysRearms : Prop :=
  ∀ (s : State) (frame : List Byte) (tick : Tick), s.fault = none →
    ∃ t, exec (.cmdRx frame tick) s = .next t ∧ t.rxArmed = true ∧ t.caplog.getLast? = some (.receiveBytes 9)

/-- R99: the transitions of (`run`, `cfg_mode`). Each row: the states it starts from, then what START, STOP, RESET,
TRGMODE, INTMODE and an unrecognized frame lead to. -/
def Obligations.ModeTransitionTable : Prop :=
  ∀ row ∈ ([
    ((.stopped, .none), (.stopped, .none), (.stopped, .none), (.stopped, .none), (.stopped, .triggered),
      (.stopped, .continuous), (.stopped, .none)),
    ((.stopped, .continuous), (.running, .continuous), (.stopped, .continuous), (.stopped, .continuous),
      (.stopped, .triggered), (.stopped, .continuous), (.stopped, .continuous)),
    ((.stopped, .triggered), (.running, .triggered), (.stopped, .triggered), (.stopped, .triggered),
      (.stopped, .triggered), (.stopped, .continuous), (.stopped, .triggered)),
    ((.running, .continuous), (.running, .continuous), (.stopped, .continuous), (.stopped, .continuous),
      (.stopped, .triggered), (.stopped, .continuous), (.running, .continuous)),
    ((.running, .triggered), (.running, .triggered), (.stopped, .triggered), (.stopped, .triggered),
      (.stopped, .triggered), (.stopped, .continuous), (.running, .triggered))] :
      List ((Run × CfgMode) × (Run × CfgMode) × (Run × CfgMode) × (Run × CfgMode) × (Run × CfgMode) × (Run × CfgMode) ×
        (Run × CfgMode))),
    ∀ (s : State) (tick : Tick) (frame : List Byte), s.fault = none → decodeCommand frame = none →
      (s.run, s.cfgMode) = row.1 →
      (∃ t, exec (.start tick) s = .next t ∧ (t.run, t.cfgMode) = row.2.1) ∧
      (∃ t, exec (.stop tick) s = .next t ∧ (t.run, t.cfgMode) = row.2.2.1) ∧
      (∃ t, exec (.reset tick) s = .next t ∧ (t.run, t.cfgMode) = row.2.2.2.1) ∧
      (∃ t, exec (.trgmode tick) s = .next t ∧ (t.run, t.cfgMode) = row.2.2.2.2.1) ∧
      (∃ t, exec (.intmode tick) s = .next t ∧ (t.run, t.cfgMode) = row.2.2.2.2.2.1) ∧
      (∃ t, exec (.cmdOther frame tick) s = .next t ∧ (t.run, t.cfgMode) = row.2.2.2.2.2.2)

/-- R100: "Only CMD_RX and power-on reset write `run` and `cfg_mode`"; the enables likewise (R135). -/
def Obligations.OnlyCommandsWriteTheMode : Prop :=
  ∀ (i : Instr) (s t : State), exec i s = .next t → isCommand i = false → i ≠ .rst →
    t.run = s.run ∧ t.cfgMode = s.cfgMode ∧ t.adcEn = s.adcEn ∧ t.edgeEn = s.edgeEn ∧
      t.markerTick = s.markerTick ∧ t.rxArmed = s.rxArmed

/-! ## The encoder -/

/-- R105, R110: ENCODE of one of the four types and at most 20 bytes answers the padded packet, 21 bytes, and changes
nothing else. -/
def Obligations.EncodePadsWithFill : Prop :=
  ∀ (s : State) (ty : Byte) (len : BitVec 5) (payload : List Byte), s.fault = none →
    (ty = 0xA0 ∨ ty = 0xB0 ∨ ty = 0xC0 ∨ ty = 0xD0) → len.toNat ≤ 20 → payload.length = 20 → ∃ pkt : Packet,
    exec (.encodeReq ty len payload) s = .next { s with resp := some (.packet pkt) } ∧
    pkt = [ty] ++ payload.take len.toNat ++ List.replicate (20 - len.toNat) s.cfg.fill ∧ pkt.length = 21

/-- R105, R132, R134: a type outside the four is refused, whatever the length; the answer is none (log 6). -/
def Obligations.EncodeRefusesOtherTypes : Prop :=
  ∀ (s : State) (ty : Byte) (len : BitVec 5) (payload : List Byte), s.fault = none →
    ty ≠ 0xA0 → ty ≠ 0xB0 → ty ≠ 0xC0 → ty ≠ 0xD0 →
    exec (.encodeReq ty len payload) s = .next { s with refused := s.refused.or (some .badPacketType), resp := none }

/-- R129, R131: a payload of more than 20 bytes is the sticky fault; the answer is none (log 6). -/
def Obligations.EncodeTooLargeFaults : Prop :=
  ∀ (s : State) (ty : Byte) (len : BitVec 5) (payload : List Byte), s.fault = none →
    (ty = 0xA0 ∨ ty = 0xB0 ∨ ty = 0xC0 ∨ ty = 0xD0) → 20 < len.toNat →
    exec (.encodeReq ty len payload) s = .next { s with
      fault := some (.payloadTooLarge len.toNat), errlog := s.errlog ++ [.payloadTooLarge len.toNat], resp := none }

/-- R113: a receiver reads the tick of a start marker, and from an edge packet the ticks and states of its records. -/
def Obligations.ReceiverReadsWhatWasSent : Prop :=
  ∀ (c : Config), (∀ p, receivePacket c (0xA0 :: p) = some (.analog p)) ∧
    (∀ tick, receivePacket c (paddedPacket c 0xC0 (le32 tick)) = some (.startMarker tick)) ∧
    (∀ records : List (Tick × Bool), records.length = c.slice / 5 →
      receivePacket c (paddedPacket c 0xB0 (records.flatMap fun r => edgeRecord r.1 r.2)) =
        some (.edges (records.map fun r => (r.1, if r.2 then 0x01 else 0x00)))) ∧
    (∀ p, receivePacket c (0xD0 :: p) = some (.busy p))

/-! ## The sequencer -/

/-- R115: with a packet in flight an opportunity sends nothing and takes nothing. -/
def Obligations.OpportunityWhileBusyIsDeferred : Prop :=
  ∀ (s : State) (adcBusy linkOk : Bool), s.fault = none → s.txBusy = true →
    exec (.txOpp adcBusy linkOk) s = .next { s with errlog := s.errlog ++ [.linkBusy .deferred] }

/-- R116, R108: a pending marker goes first, and is no longer pending whatever the link answers. -/
def Obligations.MarkerGoesFirst : Prop :=
  ∀ (s : State) (adcBusy linkOk : Bool), s.fault = none → s.txBusy = false → s.markerPending = true →
    exec (.txOpp adcBusy linkOk) s = .next (State.afterHandOff { s with markerPending := false }
      ([0xC0, s.markerTick.extractLsb' 0 8, s.markerTick.extractLsb' 8 8, s.markerTick.extractLsb' 16 8,
        s.markerTick.extractLsb' 24 8] ++ List.replicate 16 s.cfg.fill) linkOk)

/-- R107, R114 (source step 1), R121: a full edge slice leaves FIFO `E` in an edge packet. -/
def Obligations.EdgeSliceGoesNext : Prop :=
  ∀ (s : State) (adcBusy linkOk : Bool), s.fault = none → s.txBusy = false → s.markerPending = false →
    s.cfg.slice ≤ s.fifoE.count →
    exec (.txOpp adcBusy linkOk) s = .next (State.afterHandOff
      { s with fifoE := s.fifoE.without (s.cap .E) s.cfg.slice }
      (paddedPacket s.cfg 0xB0 ((s.live .E).take s.cfg.slice)) linkOk)

/-- R106, R114 (source step 2), R121: without a full edge slice, a full analog slice leaves FIFO `A`. -/
def Obligations.AnalogSliceGoesThird : Prop :=
  ∀ (s : State) (adcBusy linkOk : Bool), s.fault = none → s.txBusy = false → s.markerPending = false →
    s.fifoE.count < s.cfg.slice → 20 ≤ s.fifoA.count →
    exec (.txOpp adcBusy linkOk) s = .next (State.afterHandOff
      { s with fifoA := s.fifoA.without (s.cap .A) 20 } (0xA0 :: (s.live .A).take 20) linkOk)

/-- R109, R117: the heartbeat carries what FIFO `A` holds, or nothing, as `BUSY_PAYLOAD` says. -/
def Obligations.HeartbeatCarriesThePartialSlice : Prop :=
  ∀ (s : State) (linkOk : Bool), s.fault = none → s.txBusy = false → s.markerPending = false →
    s.fifoE.count < s.cfg.slice → s.fifoA.count < 20 →
    (s.cfg.busyPayload = .analogPartial → exec (.txOpp true linkOk) s = .next (State.afterHandOff
      { s with fifoA := s.fifoA.without (s.cap .A) s.fifoA.count } (paddedPacket s.cfg 0xD0 (s.live .A)) linkOk)) ∧
    (s.cfg.busyPayload = .nothing → exec (.txOpp true linkOk) s = .next (State.afterHandOff s
      (0xD0 :: List.replicate 20 s.cfg.fill) linkOk))

/-- R123: edge priority, for either value of `EDGE_SLICE`: with 20 bytes or more in both FIFOs, the link idle and no
marker pending, the packet handed to the link has type 0xB0. -/
def Obligations.EdgePriority : Prop :=
  ∀ (s : State) (adcBusy linkOk : Bool), s.fault = none → s.txBusy = false → s.markerPending = false →
    20 ≤ s.fifoE.count → 20 ≤ s.fifoA.count →
    ∃ t payload, exec (.txOpp adcBusy linkOk) s = .next t ∧
      t.caplog = s.caplog ++ [.transmitBytes (0xB0 :: payload) 21] ∧ payload.length = 20 ∧
      t.txlog = s.txlog ++ (if linkOk then [0xB0 :: payload] else [])

/-- R124: the heartbeat law. -/
def Obligations.HeartbeatLaw : Prop :=
  ∀ (s : State) (linkOk : Bool), s.fault = none → s.txBusy = false → s.markerPending = false →
    s.fifoA.count = 0 → s.fifoE.count = 0 →
    ∃ t, exec (.txOpp true linkOk) s = .next t ∧
      t.caplog = s.caplog ++ [.transmitBytes (0xD0 :: List.replicate 20 s.cfg.fill) 21] ∧
      t.txlog = s.txlog ++ (if linkOk then [0xD0 :: List.replicate 20 s.cfg.fill] else [])

/-- R118, R119: whatever an opportunity would hand off, a link that rejects it takes the same bytes from the same FIFO,
keeps nothing of the packet and raises LinkBusy(lost). -/
def Obligations.RejectedHandOffIsLost : Prop :=
  ∀ (s t : State) (adcBusy : Bool), s.fault = none → s.txBusy = false →
    exec (.txOpp adcBusy true) s = .next t → t.txBusy = true →
    exec (.txOpp adcBusy false) s = .next { t with
      txBusy := false, txPkt := s.txPkt, txlog := s.txlog, errlog := s.errlog ++ [.linkBusy .lost] }

/-- R122: TX_DONE, the code 0101, ends the packet in flight; with nothing in flight it changes nothing. -/
def Obligations.TxDoneEndsThePacket : Prop :=
  ∀ (s : State), s.fault = none →
    (s.txBusy = true → exec .txDone s = .next { s with txBusy := false }) ∧
    (s.txBusy = false → exec .txDone s = .next s) ∧ encode s.cfg .txDone = [0x05]

/-- R112: TX_OPP never faults and never refuses, from any state at all. -/
def Obligations.OpportunityNeverFaults : Prop :=
  ∀ (s t : State) (adcBusy linkOk : Bool), exec (.txOpp adcBusy linkOk) s = .next t →
    t.fault = s.fault ∧ t.refused = s.refused

/-- R120: the sequencer runs in every state of the mode controller: `run`, `cfg_mode`, the enables and `burst` make no
difference to it. -/
def Obligations.OpportunityIgnoresTheMode : Prop :=
  ∀ (s t : State) (adcBusy linkOk : Bool) (r : Run) (m : CfgMode) (a e : Bool) (u : Burst),
    exec (.txOpp adcBusy linkOk) s = .next t →
    exec (.txOpp adcBusy linkOk) { s with run := r, cfgMode := m, adcEn := a, edgeEn := e, burst := u } =
      .next { t with run := r, cfgMode := m, adcEn := a, edgeEn := e, burst := u }

/-- R158: a packet in flight is not changed until its TX_DONE (or a power-on reset), and an opportunity hands off no
other packet. -/
def Obligations.PacketInFlightIsHeld : Prop :=
  ∀ (i : Instr) (s t : State), exec i s = .next t → s.txBusy = true → i ≠ .rst →
    t.txPkt = s.txPkt ∧ t.txlog = s.txlog ∧ (i ≠ .txDone → t.txBusy = true) ∧
      (∀ adcBusy linkOk, i = .txOpp adcBusy linkOk → t.caplog = s.caplog)

/-- The four packet rows (R106 to R109): the step that puts the packet on the channel is the accepted opportunity that
sends it (the rows' reading is the model's, log 8). -/
def Obligations.PacketRowsSendTheirPacket : Prop :=
  ∀ (s : State) (payload : List Byte), s.fault = none → s.txBusy = false →
    (s.markerPending = true → payload = le32 s.markerTick ++ List.replicate 16 s.cfg.fill →
      exec (.pktStart payload) s = .next (State.afterAccepted { s with markerPending := false } (0xC0 :: payload))) ∧
    (s.markerPending = false → s.cfg.slice ≤ s.fifoE.count →
      payload = (s.live .E).take s.cfg.slice ++ List.replicate (20 - s.cfg.slice) s.cfg.fill →
      exec (.pktEdge payload) s = .next (State.afterAccepted
        { s with fifoE := s.fifoE.without (s.cap .E) s.cfg.slice } (0xB0 :: payload))) ∧
    (s.markerPending = false → s.fifoE.count < s.cfg.slice → 20 ≤ s.fifoA.count → payload = (s.live .A).take 20 →
      exec (.pktAnalog payload) s = .next (State.afterAccepted
        { s with fifoA := s.fifoA.without (s.cap .A) 20 } (0xA0 :: payload))) ∧
    (s.markerPending = false → s.fifoE.count < s.cfg.slice → s.fifoA.count < 20 →
      s.cfg.busyPayload = .analogPartial →
      payload = s.live .A ++ List.replicate (20 - s.fifoA.count) s.cfg.fill →
      exec (.pktBusy payload) s = .next (State.afterAccepted
        { s with fifoA := s.fifoA.without (s.cap .A) s.fifoA.count } (0xD0 :: payload))) ∧
    (s.markerPending = false → s.fifoE.count < s.cfg.slice → s.fifoA.count < 20 → s.cfg.busyPayload = .nothing →
      payload = List.replicate 20 s.cfg.fill →
      exec (.pktBusy payload) s = .next (State.afterAccepted s (0xD0 :: payload)))

/-- The model's choice (log 8): a packet that the accepted opportunity does not send is refused, and nothing else
changes. The opportunity is one without a conversion in progress, but for a busy packet. -/
def Obligations.PacketNotSentIsRefused : Prop :=
  ∀ (s t : State) (adcBusy : Bool) (payload : List Byte) (i : Instr) (ty : Byte), s.fault = none →
    (i, ty, adcBusy) ∈ [(Instr.pktAnalog payload, (0xA0 : Byte), false), (.pktEdge payload, 0xB0, false),
      (.pktStart payload, 0xC0, false), (.pktBusy payload, 0xD0, true)] →
    exec (.txOpp adcBusy true) s = .next t → t.txlog ≠ s.txlog ++ [ty :: payload] →
    exec i s = .next { s with refused := s.refused.or (some .packetNotProduced) }

/-! ## The whole block -/

/-- R48, R50, R160: outside the FIFO port, the bytes a FIFO holds change only so: its producer's data is appended, a
command or a power-on reset clears it, or its first bytes go into a packet handed to the link. -/
def Obligations.BytesLeaveOnlyThroughTheNamedWays : Prop :=
  ∀ (i : Instr) (x : Fifo) (s t : State), (∀ y, (s.fifo y).Ok (s.cap y)) → exec i s = .next t → portOf i ≠ .fifo →
    t.live x = s.live x ∨
    (∃ block, x = .A ∧ i = .adcDone block ∧ t.live x = s.live x ++ block) ∨
    (∃ tick pin, x = .E ∧ i = .edge tick pin ∧ t.live x = s.live x ++ edgeRecord tick pin) ∨
    ((isCommand i = true ∨ i = .rst) ∧ t.live x = []) ∨
    (∃ ty k pad, t.caplog = s.caplog ++ [.transmitBytes (ty :: ((s.live x).take k ++ pad)) 21] ∧
      t.live x = (s.live x).drop k)

/-- R17, R18: the FIFO invariant holds after reset and every step keeps it; EMPTY and FULL say how many bytes are held, and `head = tail` alone
does not tell an empty FIFO from a full one. -/
def Obligations.EveryStepKeepsTheFifoInvariant : Prop :=
  (∀ x, (State.reset.fifo x).Ok (State.reset.cap x)) ∧ ∀ (s t : State), (∀ x, (s.fifo x).Ok (s.cap x)) → step s = .next t →
    ∀ x, (t.fifo x).Ok (t.cap x) ∧ ((t.fifo x).isEmpty = true ↔ t.live x = []) ∧
      ((t.fifo x).isFull (t.cap x) = true ↔ (t.live x).length = t.cap x) ∧
      ((t.fifo x).head = (t.fifo x).tail ↔ (t.fifo x).count = 0 ∨ (t.fifo x).count = t.cap x)

/-- R17, R18, R23, R30, R58, R131, R158 and what R93 to R97 make of the enables: every step keeps the invariant. -/
def Obligations.EveryStepKeepsTheInvariant : Prop :=
  ∀ (s t : State), s.Inv → step s = .next t → t.Inv

/-- The invariant holds after reset. -/
def Obligations.ResetMeetsTheInvariant : Prop := State.reset.Inv

/-- R32: every field of the STATUS image, in every state. -/
def Obligations.StatusImageFields : Prop :=
  ∀ s : State,
    s.status.extractLsb' 0 1 = (match s.run with | .stopped => 0 | .running => 1) ∧
    s.status.extractLsb' 1 2 = (match s.cfgMode with | .none => 0b00 | .continuous => 0b01 | .triggered => 0b10) ∧
    s.status.getLsbD 3 = s.adcEn ∧ s.status.getLsbD 4 = s.edgeEn ∧
    s.status.extractLsb' 5 2 = (match s.burst with | .off => 0b00 | .armed => 0b01 | .running => 0b10) ∧
    s.status.getLsbD 7 = s.markerPending ∧ s.status.getLsbD 8 = s.txBusy ∧ s.status.getLsbD 9 = s.rxArmed ∧
    s.status.getLsbD 10 = s.fault.isSome ∧ s.status.extractLsb' 11 5 = 0

/-- R125: the end-to-end law, for a block of `20 m` bytes (the ASCII values of the two tokens are presumed, log 15):
after INTMODE and START, one ADC_DONE and `m` accepted
opportunities, each followed by TX_DONE, hand the link exactly `m` analog packets whose payloads are the block. -/
def Obligations.EndToEndStream : Prop :=
  ∀ (s : State) (tick : Tick) (block : List Byte) (busy : List Bool), s.fault = none → s.txBusy = false →
    s.cfg.analogChunk = 20 * busy.length → s.cfg.analogChunk ≤ s.cap .A → block.length = s.cfg.analogChunk →
    ∃ (t : State) (payloads : List (List Byte)),
      runAll (contStart tick ++ [.adcDone block] ++ busy.flatMap sendOne) s = some t ∧
      payloads.length = busy.length ∧ (∀ p ∈ payloads, p.length = 20) ∧ payloads.flatten = block ∧
      t.txlog = s.txlog ++ payloads.map (0xA0 :: ·) ∧ t.live .A = [] ∧ t.txBusy = false ∧ t.errlog = s.errlog

/-! ## Programs and error entries -/

/-- R70: a program's encoding is the concatenation of its lines' encodings on its one port, and reading it gives its
lines back. How the requests of a component program are told apart is the model's (log 20): the bytes of an ENCREQ line
of a type below 0x30, which ENCODE refuses, are read there as the FIFO port reads them. -/
def Obligations.ProgramsDecodeToTheirLines : Prop :=
  (∀ (c : Config) (p : Port) (is : List Instr), (∀ i ∈ is, i.wf c = true ∧ carries p i = true) →
    (encodeProgram c p is).port = p ∧ (encodeProgram c p is).bytes = (is.map (encode c)).flatten ∧
      decodeProgram c (encodeProgram c p is) = some is) ∧
  (∀ (c : Config) (ty : Byte) (len : BitVec 5) (payload rest : List Byte), ty.toNat < 0x30 →
    decode c .component (encode c (.encodeReq ty len payload) ++ rest) =
      decode c .fifo (encode c (.encodeReq ty len payload) ++ rest))

/-- R126, R130: `raise` appends one entry to `errlog` and changes nothing else; the codes of the entries and the numbers
of a `LinkBusy` info are the table's. -/
def Obligations.RaiseAppendsTheTablesEntry : Prop :=
  ∀ (s : State) (e : ErrorEvent), s.raise e = { s with errlog := s.errlog ++ [e] } ∧
    e.code = (match e with
      | .bufferOverflow _ _ _ => 1 | .unrecognizedCommand _ => 2 | .payloadTooLarge _ => 3 | .linkBusy _ => 4) ∧
    LinkBusyInfo.deferred.number = 0 ∧ LinkBusyInfo.lost.number = 1
end

