-- ==== Sys2Proof/Laws/PerInstr.lean ====
section
/-! SUPPORT. A fact about every instruction as syntax: how many bytes it takes on its port. -/

namespace Sys2Proof.Laws

/-- The number of bytes of an instruction's encoding in a build (R53, R55, R56, R57, R58). -/
def Sizes.size (c : Config) : Instr → Nat
  | .rst => 1
  | .adcDone _ => 1 + c.analogChunk
  | .edge _ _ => 6
  | .cmdRx _ _ => 14
  | .txOpp _ _ => 2
  | .txDone => 1
  | .clr _ => 1
  | .enq _ data => 1 + countBytes c + data.length
  | .deq _ _ => 1 + countBytes c
  | .empty _ => 1
  | .full _ => 1
  | .len _ => 1
  | .start _ => 13
  | .stop _ => 13
  | .reset _ => 13
  | .trgmode _ => 13
  | .intmode _ => 13
  | .cmdOther _ _ => 13
  | .pktAnalog _ => 21
  | .pktEdge _ => 21
  | .pktStart _ => 21
  | .pktBusy _ => 21
  | .encodeReq _ _ _ => 22

/-- A well-formed instruction's encoding has the length its format fixes. -/
def Sizes.Statement (i : Instr) : Prop :=
  ∀ c : Config, i.wf c = true → (encode c i).length = Sizes.size c i

theorem Sizes.length_leBytes (k n : Nat) : (leBytes k n).length = k := by
  induction k generalizing n with
  | zero => rfl
  | succ k ih => simp [leBytes, ih]

theorem Sizes.rst : Sizes.Statement .rst := fun _ _ => rfl
theorem Sizes.adcDone (b) : Sizes.Statement (.adcDone b) := fun c h => by
  have h : b.length = c.analogChunk := by simpa [Instr.wf] using h
  simp [encode, Sizes.size, h]; omega
theorem Sizes.edge (t p) : Sizes.Statement (.edge t p) := fun _ _ => rfl
theorem Sizes.cmdRx (f t) : Sizes.Statement (.cmdRx f t) := fun c h => by
  have h : f.length = 9 := by simpa [Instr.wf] using h
  simp [encode, Sizes.size, le32, h]
theorem Sizes.txOpp (b l) : Sizes.Statement (.txOpp b l) := fun _ _ => rfl
theorem Sizes.txDone : Sizes.Statement .txDone := fun _ _ => rfl
theorem Sizes.clr (x) : Sizes.Statement (.clr x) := fun _ _ => rfl
theorem Sizes.enq (x d) : Sizes.Statement (.enq x d) := fun c _ => by
  simp [encode, Sizes.size, Sizes.length_leBytes]; omega
theorem Sizes.deq (x n) : Sizes.Statement (.deq x n) := fun c _ => by
  simp [encode, Sizes.size, Sizes.length_leBytes]; omega
theorem Sizes.empty (x) : Sizes.Statement (.empty x) := fun _ _ => rfl
theorem Sizes.full (x) : Sizes.Statement (.full x) := fun _ _ => rfl
theorem Sizes.len (x) : Sizes.Statement (.len x) := fun _ _ => rfl
theorem Sizes.start (t) : Sizes.Statement (.start t) := fun _ _ => rfl
theorem Sizes.stop (t) : Sizes.Statement (.stop t) := fun _ _ => rfl
theorem Sizes.reset (t) : Sizes.Statement (.reset t) := fun _ _ => rfl
theorem Sizes.trgmode (t) : Sizes.Statement (.trgmode t) := fun _ _ => rfl
theorem Sizes.intmode (t) : Sizes.Statement (.intmode t) := fun _ _ => rfl
theorem Sizes.cmdOther (f t) : Sizes.Statement (.cmdOther f t) := fun c h => by
  have h : f.length = 9 := by
    have := h; simp [Instr.wf] at this; exact this.1
  simp [encode, Sizes.size, le32, h]
theorem Sizes.pktAnalog (p) : Sizes.Statement (.pktAnalog p) := fun c h => by
  have h : p.length = 20 := by simpa [Instr.wf] using h
  simp [encode, Sizes.size, h]
theorem Sizes.pktEdge (p) : Sizes.Statement (.pktEdge p) := fun c h => by
  have h : p.length = 20 := by simpa [Instr.wf] using h
  simp [encode, Sizes.size, h]
theorem Sizes.pktStart (p) : Sizes.Statement (.pktStart p) := fun c h => by
  have h : p.length = 20 := by simpa [Instr.wf] using h
  simp [encode, Sizes.size, h]
theorem Sizes.pktBusy (p) : Sizes.Statement (.pktBusy p) := fun c h => by
  have h : p.length = 20 := by simpa [Instr.wf] using h
  simp [encode, Sizes.size, h]
theorem Sizes.encodeReq (ty l p) : Sizes.Statement (.encodeReq ty l p) := fun c h => by
  have h : p.length = 20 := by simpa [Instr.wf] using h
  simp [encode, Sizes.size, encHeader, h]

end Sys2Proof.Laws
end

