-- ==== Sys2Proof/Laws/Decode.lean ====
section
/-! SUPPORT. The byte helpers of decoding and encoding are inverse to each other. -/

namespace Sys2Proof

/-- `le32` read back (R86). -/
theorem ofLe32_le32 (t : Tick) : ofLe32 (t.extractLsb' 0 8) (t.extractLsb' 8 8) (t.extractLsb' 16 8) (t.extractLsb' 24 8) = t := by
  unfold ofLe32
  apply BitVec.eq_of_getLsbD_eq
  intro i hi
  simp only [BitVec.getLsbD_append, BitVec.getLsbD_extractLsb']
  by_cases h1 : i < 8
  · simp [h1]
  by_cases h2 : i - 8 < 8
  · simp [h1, h2, show 8 + (i - 8) = i by omega]
  by_cases h3 : i - 8 - 8 < 8
  · simp [h1, h2, h3, show 16 + (i - 8 - 8) = i by omega]
  · simp [h1, h2, h3, show i - 8 - 8 - 8 < 8 by omega, show 24 + (i - 8 - 8 - 8) = i by omega]

/-- Four bytes are the `le32` of their value. -/
theorem le32_ofLe32 (b0 b1 b2 b3 : Byte) : le32 (ofLe32 b0 b1 b2 b3) = [b0,b1,b2,b3] := by
  simp only [le32, ofLe32, List.cons.injEq, and_true]
  refine ⟨?_, ?_, ?_, ?_⟩ <;> apply BitVec.eq_of_getLsbD_eq <;> intro i hi <;>
    simp only [BitVec.getLsbD_append, BitVec.getLsbD_extractLsb'] <;>
    simp [hi, show ¬ 16 + i < 8 by omega, show ¬ 24 + i < 8 by omega, show ¬ 8 + i < 8 by omega, show 16 + i - 8 = 8 + i by omega, show 24 + i - 8 = 16 + i by omega]

/-- A count that fits its carrier is read back. -/
theorem ofLeBytes_leBytes (k n : Nat) (h : n < 256 ^ k) : ofLeBytes (leBytes k n) = n := by
  induction k generalizing n with
  | zero => simp at h; simp [leBytes, ofLeBytes, h]
  | succ k ih =>
    rw [leBytes, ofLeBytes, ih _ (by rw [pow_succ] at h; omega)]
    simp; omega

/-- The carrier's bytes are those of the count they hold. -/
theorem leBytes_ofLeBytes (bs : List Byte) : leBytes bs.length (ofLeBytes bs) = bs := by
  induction bs with
  | nil => rfl
  | cons b bs ih =>
    rw [List.length_cons, leBytes, ofLeBytes]
    have hb := b.isLt
    have : (b.toNat + 256 * ofLeBytes bs) / 256 = ofLeBytes bs := by omega
    rw [this, ih]; congr 1
    apply BitVec.eq_of_toNat_eq; simp; omega

/-- A count of `LEN_W` bits fits its carrier. -/
theorem count_lt_carrier (c : Config) {n} (h : n < 2 ^ c.lenW) : n < 256 ^ countBytes c := by
  refine lt_of_lt_of_le h ?_
  rw [show 256 = 2 ^ 8 from rfl, ← pow_mul]
  exact Nat.pow_le_pow_right (by decide) (by unfold countBytes; omega)

/-- The code byte of a FIFOREQ: bit 7 is the FIFO, the low bits the operation (R56). -/
theorem fifoOfCode_or (x : Fifo) (k : Byte) (hk : k.toNat < 128): fifoOfCode (fifoBit x ||| k) = x ∧ (fifoBit x ||| k).extractLsb' 0 7 = k.extractLsb' 0 7 := by
  have hk7 : k.getLsbD 7 = false := by
    rw [BitVec.getLsbD, Nat.testBit_lt_two_pow (by simpa using hk)]
  constructor
  · cases x
    · simp only [fifoOfCode, fifoBit, BitVec.getLsbD_or, hk7]; rfl
    · simp only [fifoOfCode, fifoBit, BitVec.getLsbD_or, hk7]; rfl
  · apply BitVec.eq_of_getLsbD_eq
    intro i hi
    cases x <;> simp [fifoBit, hi]
    intro h
    have : (128#8).getLsbD i = false := by
      have : i = 0 ∨ i = 1 ∨ i = 2 ∨ i = 3 ∨ i = 4 ∨ i = 5 ∨ i = 6 := by omega
      rcases this with rfl|rfl|rfl|rfl|rfl|rfl|rfl <;> rfl
    have h2 : (128#8)[i] = false := by simpa [BitVec.getLsbD_eq_getElem (show i < 8 by omega)] using this
    simp_all

/-- The two header bytes of an ENCREQ hold its sixteen bits (R57, R70). -/
theorem encHeader_append (ty : Byte) (len : BitVec 5) : 
  ((0x0#3 ++ ty ++ len).extractLsb' 8 8 ++ (0x0#3 ++ ty ++ len).extractLsb' 0 8) = (0x0#3 ++ ty ++ len) := by
  apply BitVec.eq_of_getLsbD_eq
  intro i hi
  simp only [BitVec.getLsbD_append, BitVec.getLsbD_extractLsb']
  by_cases h : i < 8
  · simp [h]
  · simp [h, show i - 8 < 8 by omega, show 8 + (i - 8) = i by omega]

/-- The first header byte of an ENCREQ is 000 and the five high bits of the type (R57, R70). -/
theorem toNat_encHeader_first (ty : Byte) (len : BitVec 5) :
    ((0x0#3 ++ ty ++ len).extractLsb' 8 8).toNat = ty.toNat / 8 := by
  have hl := len.isLt
  have ht := ty.isLt
  simp only [BitVec.extractLsb'_toNat, BitVec.toNat_append, BitVec.toNat_ofNat, Nat.shiftRight_eq_div_pow]
  rw [← Nat.shiftLeft_add_eq_or_of_lt hl, Nat.shiftLeft_eq]
  simp
  omega

/-- A component program's byte string that begins with a header byte is read as the encoder port reads it (log 20). -/
theorem decode_component_of_header (c : Config) {b : Byte} (h : 0x06 ≤ b.toNat ∧ b.toNat < 0x20) (bs : List Byte) :
    decode c .component (b :: bs) = decode c .encoder (b :: bs) := if_pos h

/-- Any other one is read as the FIFO port reads it (log 20). -/
theorem decode_component_of_code (c : Config) {b : Byte} (h : ¬ (0x06 ≤ b.toNat ∧ b.toNat < 0x20)) (bs : List Byte) :
    decode c .component (b :: bs) = decode c .fifo (b :: bs) := if_neg h

/-- Reading the first line of a byte string. -/
theorem decodeLines_cons {c : Config} {p : Port} {fuel : Nat} {bs rest : List Byte} {i : Instr} (hbs : bs ≠ [])
    (h : decode c p bs = .ok i rest) :
    decodeLines c p (fuel + 1) bs = (decodeLines c p fuel rest).map (i :: ·) := by
  obtain ⟨b, bs, rfl⟩ := List.exists_cons_of_ne_nil hbs
  simp only [decodeLines, h]

end Sys2Proof
end

