-- ==== Sys2Proof/Laws/Memory.lean ====
section
/-! SUPPORT. Storage: read after write, the canonical form is kept, and what ENQ's and DEQ's loops do. -/

namespace Sys2Proof.Machine

/-! ## One cell -/

theorem Memory.wfFrom_mono {lo lo' : Nat} {m : Memory} (h : lo' ≤ lo) (hm : Memory.wfFrom lo m = true) :
    Memory.wfFrom lo' m = true := by
  cases m with
  | nil => rfl
  | cons c m =>
    simp only [Memory.wfFrom, Bool.and_eq_true, decide_eq_true_eq] at hm ⊢
    exact ⟨⟨by omega, hm.1.2⟩, hm.2⟩

/-- An index below every listed one reads 0x00. -/
theorem Memory.read_of_lt {lo a : Nat} {m : Memory} (hm : Memory.wfFrom lo m = true) (h : a < lo) :
    Memory.read m a = 0x00 := by
  induction m generalizing lo with
  | nil => rfl
  | cons c m ih =>
    simp only [Memory.wfFrom, Bool.and_eq_true, decide_eq_true_eq] at hm
    rw [Memory.read, if_neg (by omega)]
    exact ih hm.2 (by omega)

theorem Memory.wfFrom_write {lo a : Nat} {m : Memory} (hm : Memory.wfFrom lo m = true) (h : lo ≤ a) (v : Byte) :
    Memory.wfFrom lo (Memory.write m a v) = true := by
  induction m generalizing lo with
  | nil =>
    unfold Memory.write
    split
    · rfl
    · next hv =>
      simp only [Memory.wfFrom, Bool.and_true, Bool.and_eq_true, decide_eq_true_eq]
      exact ⟨h, hv⟩
  | cons c m ih =>
    have hc := hm
    simp only [Memory.wfFrom, Bool.and_eq_true, decide_eq_true_eq] at hc
    unfold Memory.write
    split
    · split
      · exact hm
      · next hv =>
        simp only [Memory.wfFrom, Bool.and_eq_true, decide_eq_true_eq]
        exact ⟨⟨h, hv⟩, ⟨by omega, hc.1.2⟩, hc.2⟩
    · split
      · next he =>
        split
        · exact Memory.wfFrom_mono (by omega) hc.2
        · next hv =>
          simp only [Memory.wfFrom, Bool.and_eq_true, decide_eq_true_eq]
          exact ⟨⟨h, hv⟩, he ▸ hc.2⟩
      · simp only [Memory.wfFrom, Bool.and_eq_true, decide_eq_true_eq]
        exact ⟨hc.1, ih hc.2 (by omega)⟩

/-- A write keeps the canonical form. -/
theorem Memory.wf_write {m : Memory} (hm : Memory.wf m = true) (a : Nat) (v : Byte) :
    Memory.wf (Memory.write m a v) = true :=
  Memory.wfFrom_write hm (Nat.zero_le a) v

/-- A write to a cell of the array lists only cells of the array. -/
theorem Memory.within_write {cap a : Nat} {m : Memory} (hm : Memory.within cap m = true) (h : a < cap) (v : Byte) :
    Memory.within cap (Memory.write m a v) = true := by
  induction m with
  | nil => unfold Memory.write; split <;> simp [Memory.within, h]
  | cons c m ih =>
    have hc := hm
    simp only [Memory.within, List.all_cons, Bool.and_eq_true, decide_eq_true_eq] at hc ih ⊢
    have ih := ih hc.2
    unfold Memory.write
    split
    · split <;> simp only [List.all_cons, Bool.and_eq_true, decide_eq_true_eq] <;> tauto
    · split
      · split
        · exact hc.2
        · simp only [List.all_cons, Bool.and_eq_true, decide_eq_true_eq]; exact ⟨h, hc.2⟩
      · simp only [List.all_cons, Bool.and_eq_true, decide_eq_true_eq]; exact ⟨hc.1, ih⟩

theorem Memory.read_write_self_from {lo a : Nat} {m : Memory} (hm : Memory.wfFrom lo m = true) (v : Byte) :
    Memory.read (Memory.write m a v) a = v := by
  induction m generalizing lo with
  | nil =>
    unfold Memory.write
    split
    · next hv => simp [Memory.read, hv]
    · simp [Memory.read]
  | cons c m ih =>
    have hc := hm
    simp only [Memory.wfFrom, Bool.and_eq_true, decide_eq_true_eq] at hc
    unfold Memory.write
    split
    · split
      · next hlt hv =>
        rw [Memory.read, if_neg (by omega), hv]
        exact Memory.read_of_lt hc.2 (by omega)
      · simp [Memory.read]
    · split
      · next he =>
        split
        · next hv => rw [hv]; exact Memory.read_of_lt hc.2 (by omega)
        · simp [Memory.read]
      · next hne => rw [Memory.read, if_neg (by omega)]; exact ih hc.2

/-- A read after a write to the same cell gives the byte written. -/
theorem Memory.read_write_self {m : Memory} (hm : Memory.wf m = true) (a : Nat) (v : Byte) :
    Memory.read (Memory.write m a v) a = v :=
  Memory.read_write_self_from hm v

/-- A write leaves every other cell alone. -/
theorem Memory.read_write_of_ne {m : Memory} {a b : Nat} (h : b ≠ a) (v : Byte) :
    Memory.read (Memory.write m a v) b = Memory.read m b := by
  induction m with
  | nil =>
    unfold Memory.write
    split
    · rfl
    · rw [Memory.read.eq_2, if_neg (by omega)]
  | cons c m ih =>
    unfold Memory.write
    split
    · split
      · rfl
      · rw [Memory.read.eq_2, if_neg (by omega)]
    · split
      · next he =>
        split
        · rw [Memory.read.eq_2, if_neg (by omega)]
        · rw [Memory.read.eq_2, Memory.read.eq_2, if_neg (by omega), if_neg (by omega)]
      · rw [Memory.read.eq_2, Memory.read.eq_2, ih]

/-! ## Indices modulo the capacity -/

/-- Two offsets of less than `cap` from one index are different cells. -/
theorem index_ne {cap i j k : Nat} (hj : j < cap) (hk : k < cap) (h : j ≠ k) : (i + j) % cap ≠ (i + k) % cap := by
  intro he
  have : j ≡ k [MOD cap] := Nat.ModEq.add_left_cancel' i he
  exact h (Nat.ModEq.eq_of_lt_of_lt this hj hk)

/-! ## ENQ's loop -/

theorem wf_storeBytes {cap : Nat} {m : Memory} (hm : Memory.wf m = true) (i : Nat) (data : List Byte) :
    Memory.wf (storeBytes cap m i data) = true := by
  induction data generalizing m i with
  | nil => exact hm
  | cons d ds ih => exact ih (Memory.wf_write hm _ _) _

theorem within_storeBytes {cap : Nat} (hcap : 0 < cap) {m : Memory} (hm : Memory.within cap m = true) (i : Nat)
    (data : List Byte) : Memory.within cap (storeBytes cap m i data) = true := by
  induction data generalizing m i with
  | nil => exact hm
  | cons d ds ih => exact ih (Memory.within_write hm (Nat.mod_lt _ hcap) _) _

/-- A cell that is none of those stored to keeps its byte. -/
theorem read_storeBytes_of_ne {cap : Nat} {m : Memory} {i a : Nat} {data : List Byte}
    (h : ∀ j < data.length, a ≠ (i + j) % cap) : Memory.read (storeBytes cap m i data) a = Memory.read m a := by
  induction data generalizing m i with
  | nil => rfl
  | cons d ds ih =>
    have h0 : a ≠ i % cap := h 0 (by simp)
    rw [storeBytes, ih, Memory.read_write_of_ne h0]
    intro j hj
    have := h (j + 1) (by simpa using hj)
    rwa [show i + (j + 1) = i + 1 + j by omega] at this

/-- The cell `(i + j) mod cap` holds byte `j` of the data, when the data fits in the array. -/
theorem read_storeBytes {cap : Nat} {m : Memory} (hm : Memory.wf m = true) {i : Nat} {data : List Byte}
    (hfit : data.length ≤ cap) {j : Nat} (hj : j < data.length) :
    Memory.read (storeBytes cap m i data) ((i + j) % cap) = data[j] := by
  induction data generalizing m i j with
  | nil => simp at hj
  | cons d ds ih =>
    simp only [List.length_cons] at hfit hj
    rw [storeBytes]
    cases j with
    | zero =>
      rw [read_storeBytes_of_ne, Nat.add_zero, Memory.read_write_self hm]
      · rfl
      · intro k hk
        rw [show i + 1 + k = i + (k + 1) by omega]
        exact index_ne (by omega) (by omega) (by omega)
    | succ j =>
      rw [show i + (j + 1) = i + 1 + j by omega, ih (Memory.wf_write hm _ _) (by omega) (by omega)]
      rfl

/-! ## DEQ's loop -/

@[simp] theorem length_loadBytes (cap : Nat) (m : Memory) (i k : Nat) : (loadBytes cap m i k).length = k := by
  induction k generalizing i with
  | zero => rfl
  | succ k ih => simp [loadBytes, ih]

theorem getElem_loadBytes (cap : Nat) (m : Memory) (i k : Nat) {j : Nat} (hj : j < (loadBytes cap m i k).length) :
    (loadBytes cap m i k)[j] = Memory.read m ((i + j) % cap) := by
  induction k generalizing i j with
  | zero => simp [loadBytes] at hj
  | succ k ih =>
    cases j with
    | zero => simp [loadBytes]
    | succ j =>
      simp only [loadBytes, List.getElem_cons_succ]
      rw [ih, show i + (j + 1) = i + 1 + j by omega]

/-- Two loads of one length are equal when every cell read is. -/
theorem loadBytes_congr {cap : Nat} {m m' : Memory} {i i' k : Nat}
    (h : ∀ j < k, Memory.read m ((i + j) % cap) = Memory.read m' ((i' + j) % cap)) :
    loadBytes cap m i k = loadBytes cap m' i' k := by
  apply List.ext_getElem (by simp)
  intro j h1 h2
  rw [getElem_loadBytes, getElem_loadBytes]
  exact h j (by simpa using h1)

/-- A load from an index reduced modulo the capacity. -/
theorem loadBytes_mod (cap : Nat) (m : Memory) (i k : Nat) : loadBytes cap m (i % cap) k = loadBytes cap m i k :=
  loadBytes_congr fun j _ => by rw [Nat.mod_add_mod]

/-- A load of `j + k` bytes is a load of `j`, then one of `k` from `j` further on. -/
theorem loadBytes_add (cap : Nat) (m : Memory) (i j k : Nat) :
    loadBytes cap m i (j + k) = loadBytes cap m i j ++ loadBytes cap m (i + j) k := by
  induction j generalizing i with
  | zero => simp [loadBytes]
  | succ j ih =>
    rw [show j + 1 + k = j + k + 1 by omega, loadBytes, ih, loadBytes, show i + 1 + j = i + (j + 1) by omega]
    rfl

end Sys2Proof.Machine
end

