-- ==== Sys2Proof/Laws/State.lean ====
section
/-! SUPPORT. One lemma per field per update of the state, so that no proof unfolds a record update. -/

namespace Sys2Proof.Machine

@[simp] theorem State.raise_cfg (s : State) (e : ErrorEvent) : (s.raise e).cfg = s.cfg := rfl
@[simp] theorem State.raise_fifoA (s : State) (e : ErrorEvent) : (s.raise e).fifoA = s.fifoA := rfl
@[simp] theorem State.raise_fifoE (s : State) (e : ErrorEvent) : (s.raise e).fifoE = s.fifoE := rfl
@[simp] theorem State.raise_run (s : State) (e : ErrorEvent) : (s.raise e).run = s.run := rfl
@[simp] theorem State.raise_cfgMode (s : State) (e : ErrorEvent) : (s.raise e).cfgMode = s.cfgMode := rfl
@[simp] theorem State.raise_adcEn (s : State) (e : ErrorEvent) : (s.raise e).adcEn = s.adcEn := rfl
@[simp] theorem State.raise_edgeEn (s : State) (e : ErrorEvent) : (s.raise e).edgeEn = s.edgeEn := rfl
@[simp] theorem State.raise_burst (s : State) (e : ErrorEvent) : (s.raise e).burst = s.burst := rfl
@[simp] theorem State.raise_markerPending (s : State) (e : ErrorEvent) : (s.raise e).markerPending = s.markerPending := rfl
@[simp] theorem State.raise_markerTick (s : State) (e : ErrorEvent) : (s.raise e).markerTick = s.markerTick := rfl
@[simp] theorem State.raise_txBusy (s : State) (e : ErrorEvent) : (s.raise e).txBusy = s.txBusy := rfl
@[simp] theorem State.raise_txPkt (s : State) (e : ErrorEvent) : (s.raise e).txPkt = s.txPkt := rfl
@[simp] theorem State.raise_rxArmed (s : State) (e : ErrorEvent) : (s.raise e).rxArmed = s.rxArmed := rfl
@[simp] theorem State.raise_fault (s : State) (e : ErrorEvent) : (s.raise e).fault = s.fault := rfl
@[simp] theorem State.raise_txlog (s : State) (e : ErrorEvent) : (s.raise e).txlog = s.txlog := rfl
@[simp] theorem State.raise_caplog (s : State) (e : ErrorEvent) : (s.raise e).caplog = s.caplog := rfl
@[simp] theorem State.raise_errlog (s : State) (e : ErrorEvent) : (s.raise e).errlog = s.errlog ++ [e] := rfl
@[simp] theorem State.raise_refused (s : State) (e : ErrorEvent) : (s.raise e).refused = s.refused := rfl
@[simp] theorem State.raise_resp (s : State) (e : ErrorEvent) : (s.raise e).resp = s.resp := rfl
@[simp] theorem State.raise_stim (s : State) (e : ErrorEvent) : (s.raise e).stim = s.stim := rfl
@[simp] theorem State.raise_draws (s : State) (e : ErrorEvent) : (s.raise e).draws = s.draws := rfl

@[simp] theorem State.emit_cfg (s : State) (r : CapRequest) : (s.emit r).cfg = s.cfg := rfl
@[simp] theorem State.emit_fifoA (s : State) (r : CapRequest) : (s.emit r).fifoA = s.fifoA := rfl
@[simp] theorem State.emit_fifoE (s : State) (r : CapRequest) : (s.emit r).fifoE = s.fifoE := rfl
@[simp] theorem State.emit_run (s : State) (r : CapRequest) : (s.emit r).run = s.run := rfl
@[simp] theorem State.emit_cfgMode (s : State) (r : CapRequest) : (s.emit r).cfgMode = s.cfgMode := rfl
@[simp] theorem State.emit_adcEn (s : State) (r : CapRequest) : (s.emit r).adcEn = s.adcEn := rfl
@[simp] theorem State.emit_edgeEn (s : State) (r : CapRequest) : (s.emit r).edgeEn = s.edgeEn := rfl
@[simp] theorem State.emit_burst (s : State) (r : CapRequest) : (s.emit r).burst = s.burst := rfl
@[simp] theorem State.emit_markerPending (s : State) (r : CapRequest) : (s.emit r).markerPending = s.markerPending := rfl
@[simp] theorem State.emit_markerTick (s : State) (r : CapRequest) : (s.emit r).markerTick = s.markerTick := rfl
@[simp] theorem State.emit_txBusy (s : State) (r : CapRequest) : (s.emit r).txBusy = s.txBusy := rfl
@[simp] theorem State.emit_txPkt (s : State) (r : CapRequest) : (s.emit r).txPkt = s.txPkt := rfl
@[simp] theorem State.emit_rxArmed (s : State) (r : CapRequest) : (s.emit r).rxArmed = s.rxArmed := rfl
@[simp] theorem State.emit_fault (s : State) (r : CapRequest) : (s.emit r).fault = s.fault := rfl
@[simp] theorem State.emit_txlog (s : State) (r : CapRequest) : (s.emit r).txlog = s.txlog := rfl
@[simp] theorem State.emit_caplog (s : State) (r : CapRequest) : (s.emit r).caplog = s.caplog ++ [r] := rfl
@[simp] theorem State.emit_errlog (s : State) (r : CapRequest) : (s.emit r).errlog = s.errlog := rfl
@[simp] theorem State.emit_refused (s : State) (r : CapRequest) : (s.emit r).refused = s.refused := rfl
@[simp] theorem State.emit_resp (s : State) (r : CapRequest) : (s.emit r).resp = s.resp := rfl
@[simp] theorem State.emit_stim (s : State) (r : CapRequest) : (s.emit r).stim = s.stim := rfl
@[simp] theorem State.emit_draws (s : State) (r : CapRequest) : (s.emit r).draws = s.draws := rfl

@[simp] theorem State.refuse_cfg (s : State) (r : RefuseReason) : (s.refuse r).cfg = s.cfg := rfl
@[simp] theorem State.refuse_fifoA (s : State) (r : RefuseReason) : (s.refuse r).fifoA = s.fifoA := rfl
@[simp] theorem State.refuse_fifoE (s : State) (r : RefuseReason) : (s.refuse r).fifoE = s.fifoE := rfl
@[simp] theorem State.refuse_run (s : State) (r : RefuseReason) : (s.refuse r).run = s.run := rfl
@[simp] theorem State.refuse_cfgMode (s : State) (r : RefuseReason) : (s.refuse r).cfgMode = s.cfgMode := rfl
@[simp] theorem State.refuse_adcEn (s : State) (r : RefuseReason) : (s.refuse r).adcEn = s.adcEn := rfl
@[simp] theorem State.refuse_edgeEn (s : State) (r : RefuseReason) : (s.refuse r).edgeEn = s.edgeEn := rfl
@[simp] theorem State.refuse_burst (s : State) (r : RefuseReason) : (s.refuse r).burst = s.burst := rfl
@[simp] theorem State.refuse_markerPending (s : State) (r : RefuseReason) : (s.refuse r).markerPending = s.markerPending := rfl
@[simp] theorem State.refuse_markerTick (s : State) (r : RefuseReason) : (s.refuse r).markerTick = s.markerTick := rfl
@[simp] theorem State.refuse_txBusy (s : State) (r : RefuseReason) : (s.refuse r).txBusy = s.txBusy := rfl
@[simp] theorem State.refuse_txPkt (s : State) (r : RefuseReason) : (s.refuse r).txPkt = s.txPkt := rfl
@[simp] theorem State.refuse_rxArmed (s : State) (r : RefuseReason) : (s.refuse r).rxArmed = s.rxArmed := rfl
@[simp] theorem State.refuse_fault (s : State) (r : RefuseReason) : (s.refuse r).fault = s.fault := rfl
@[simp] theorem State.refuse_txlog (s : State) (r : RefuseReason) : (s.refuse r).txlog = s.txlog := rfl
@[simp] theorem State.refuse_caplog (s : State) (r : RefuseReason) : (s.refuse r).caplog = s.caplog := rfl
@[simp] theorem State.refuse_errlog (s : State) (r : RefuseReason) : (s.refuse r).errlog = s.errlog := rfl
@[simp] theorem State.refuse_refused (s : State) (r : RefuseReason) : (s.refuse r).refused = s.refused.or (some r) := rfl
@[simp] theorem State.refuse_resp (s : State) (r : RefuseReason) : (s.refuse r).resp = s.resp := rfl
@[simp] theorem State.refuse_stim (s : State) (r : RefuseReason) : (s.refuse r).stim = s.stim := rfl
@[simp] theorem State.refuse_draws (s : State) (r : RefuseReason) : (s.refuse r).draws = s.draws := rfl

@[simp] theorem State.respond_cfg (s : State) (r : Option Response) : (s.respond r).cfg = s.cfg := rfl
@[simp] theorem State.respond_fifoA (s : State) (r : Option Response) : (s.respond r).fifoA = s.fifoA := rfl
@[simp] theorem State.respond_fifoE (s : State) (r : Option Response) : (s.respond r).fifoE = s.fifoE := rfl
@[simp] theorem State.respond_run (s : State) (r : Option Response) : (s.respond r).run = s.run := rfl
@[simp] theorem State.respond_cfgMode (s : State) (r : Option Response) : (s.respond r).cfgMode = s.cfgMode := rfl
@[simp] theorem State.respond_adcEn (s : State) (r : Option Response) : (s.respond r).adcEn = s.adcEn := rfl
@[simp] theorem State.respond_edgeEn (s : State) (r : Option Response) : (s.respond r).edgeEn = s.edgeEn := rfl
@[simp] theorem State.respond_burst (s : State) (r : Option Response) : (s.respond r).burst = s.burst := rfl
@[simp] theorem State.respond_markerPending (s : State) (r : Option Response) : (s.respond r).markerPending = s.markerPending := rfl
@[simp] theorem State.respond_markerTick (s : State) (r : Option Response) : (s.respond r).markerTick = s.markerTick := rfl
@[simp] theorem State.respond_txBusy (s : State) (r : Option Response) : (s.respond r).txBusy = s.txBusy := rfl
@[simp] theorem State.respond_txPkt (s : State) (r : Option Response) : (s.respond r).txPkt = s.txPkt := rfl
@[simp] theorem State.respond_rxArmed (s : State) (r : Option Response) : (s.respond r).rxArmed = s.rxArmed := rfl
@[simp] theorem State.respond_fault (s : State) (r : Option Response) : (s.respond r).fault = s.fault := rfl
@[simp] theorem State.respond_txlog (s : State) (r : Option Response) : (s.respond r).txlog = s.txlog := rfl
@[simp] theorem State.respond_caplog (s : State) (r : Option Response) : (s.respond r).caplog = s.caplog := rfl
@[simp] theorem State.respond_errlog (s : State) (r : Option Response) : (s.respond r).errlog = s.errlog := rfl
@[simp] theorem State.respond_refused (s : State) (r : Option Response) : (s.respond r).refused = s.refused := rfl
@[simp] theorem State.respond_resp (s : State) (r : Option Response) : (s.respond r).resp = r := rfl
@[simp] theorem State.respond_stim (s : State) (r : Option Response) : (s.respond r).stim = s.stim := rfl
@[simp] theorem State.respond_draws (s : State) (r : Option Response) : (s.respond r).draws = s.draws := rfl

@[simp] theorem State.faultWith_cfg (s : State) (n : Nat) : (s.faultWith n).cfg = s.cfg := rfl
@[simp] theorem State.faultWith_fifoA (s : State) (n : Nat) : (s.faultWith n).fifoA = s.fifoA := rfl
@[simp] theorem State.faultWith_fifoE (s : State) (n : Nat) : (s.faultWith n).fifoE = s.fifoE := rfl
@[simp] theorem State.faultWith_run (s : State) (n : Nat) : (s.faultWith n).run = s.run := rfl
@[simp] theorem State.faultWith_cfgMode (s : State) (n : Nat) : (s.faultWith n).cfgMode = s.cfgMode := rfl
@[simp] theorem State.faultWith_adcEn (s : State) (n : Nat) : (s.faultWith n).adcEn = s.adcEn := rfl
@[simp] theorem State.faultWith_edgeEn (s : State) (n : Nat) : (s.faultWith n).edgeEn = s.edgeEn := rfl
@[simp] theorem State.faultWith_burst (s : State) (n : Nat) : (s.faultWith n).burst = s.burst := rfl
@[simp] theorem State.faultWith_markerPending (s : State) (n : Nat) : (s.faultWith n).markerPending = s.markerPending := rfl
@[simp] theorem State.faultWith_markerTick (s : State) (n : Nat) : (s.faultWith n).markerTick = s.markerTick := rfl
@[simp] theorem State.faultWith_txBusy (s : State) (n : Nat) : (s.faultWith n).txBusy = s.txBusy := rfl
@[simp] theorem State.faultWith_txPkt (s : State) (n : Nat) : (s.faultWith n).txPkt = s.txPkt := rfl
@[simp] theorem State.faultWith_rxArmed (s : State) (n : Nat) : (s.faultWith n).rxArmed = s.rxArmed := rfl
@[simp] theorem State.faultWith_fault (s : State) (n : Nat) : (s.faultWith n).fault = some (.payloadTooLarge n) := rfl
@[simp] theorem State.faultWith_txlog (s : State) (n : Nat) : (s.faultWith n).txlog = s.txlog := rfl
@[simp] theorem State.faultWith_caplog (s : State) (n : Nat) : (s.faultWith n).caplog = s.caplog := rfl
@[simp] theorem State.faultWith_errlog (s : State) (n : Nat) : (s.faultWith n).errlog = s.errlog ++ [.payloadTooLarge n] := rfl
@[simp] theorem State.faultWith_refused (s : State) (n : Nat) : (s.faultWith n).refused = s.refused := rfl
@[simp] theorem State.faultWith_resp (s : State) (n : Nat) : (s.faultWith n).resp = s.resp := rfl
@[simp] theorem State.faultWith_stim (s : State) (n : Nat) : (s.faultWith n).stim = s.stim := rfl
@[simp] theorem State.faultWith_draws (s : State) (n : Nat) : (s.faultWith n).draws = s.draws := rfl

@[simp] theorem State.setFifo_cfg (s : State) (x : Fifo) (f : FifoState) : (s.setFifo x f).cfg = s.cfg := by
  cases x <;> rfl
@[simp] theorem State.setFifo_run (s : State) (x : Fifo) (f : FifoState) : (s.setFifo x f).run = s.run := by
  cases x <;> rfl
@[simp] theorem State.setFifo_cfgMode (s : State) (x : Fifo) (f : FifoState) : (s.setFifo x f).cfgMode = s.cfgMode := by
  cases x <;> rfl
@[simp] theorem State.setFifo_adcEn (s : State) (x : Fifo) (f : FifoState) : (s.setFifo x f).adcEn = s.adcEn := by
  cases x <;> rfl
@[simp] theorem State.setFifo_edgeEn (s : State) (x : Fifo) (f : FifoState) : (s.setFifo x f).edgeEn = s.edgeEn := by
  cases x <;> rfl
@[simp] theorem State.setFifo_burst (s : State) (x : Fifo) (f : FifoState) : (s.setFifo x f).burst = s.burst := by
  cases x <;> rfl
@[simp] theorem State.setFifo_markerPending (s : State) (x : Fifo) (f : FifoState) : (s.setFifo x f).markerPending = s.markerPending := by
  cases x <;> rfl
@[simp] theorem State.setFifo_markerTick (s : State) (x : Fifo) (f : FifoState) : (s.setFifo x f).markerTick = s.markerTick := by
  cases x <;> rfl
@[simp] theorem State.setFifo_txBusy (s : State) (x : Fifo) (f : FifoState) : (s.setFifo x f).txBusy = s.txBusy := by
  cases x <;> rfl
@[simp] theorem State.setFifo_txPkt (s : State) (x : Fifo) (f : FifoState) : (s.setFifo x f).txPkt = s.txPkt := by
  cases x <;> rfl
@[simp] theorem State.setFifo_rxArmed (s : State) (x : Fifo) (f : FifoState) : (s.setFifo x f).rxArmed = s.rxArmed := by
  cases x <;> rfl
@[simp] theorem State.setFifo_fault (s : State) (x : Fifo) (f : FifoState) : (s.setFifo x f).fault = s.fault := by
  cases x <;> rfl
@[simp] theorem State.setFifo_txlog (s : State) (x : Fifo) (f : FifoState) : (s.setFifo x f).txlog = s.txlog := by
  cases x <;> rfl
@[simp] theorem State.setFifo_caplog (s : State) (x : Fifo) (f : FifoState) : (s.setFifo x f).caplog = s.caplog := by
  cases x <;> rfl
@[simp] theorem State.setFifo_errlog (s : State) (x : Fifo) (f : FifoState) : (s.setFifo x f).errlog = s.errlog := by
  cases x <;> rfl
@[simp] theorem State.setFifo_refused (s : State) (x : Fifo) (f : FifoState) : (s.setFifo x f).refused = s.refused := by
  cases x <;> rfl
@[simp] theorem State.setFifo_resp (s : State) (x : Fifo) (f : FifoState) : (s.setFifo x f).resp = s.resp := by
  cases x <;> rfl
@[simp] theorem State.setFifo_stim (s : State) (x : Fifo) (f : FifoState) : (s.setFifo x f).stim = s.stim := by
  cases x <;> rfl
@[simp] theorem State.setFifo_draws (s : State) (x : Fifo) (f : FifoState) : (s.setFifo x f).draws = s.draws := by
  cases x <;> rfl

@[simp] theorem State.fifo_A (s : State) : s.fifo .A = s.fifoA := rfl
@[simp] theorem State.fifo_E (s : State) : s.fifo .E = s.fifoE := rfl
@[simp] theorem State.setFifo_A_fifoA (s : State) (f : FifoState) : (s.setFifo .A f).fifoA = f := rfl
@[simp] theorem State.setFifo_A_fifoE (s : State) (f : FifoState) : (s.setFifo .A f).fifoE = s.fifoE := rfl
@[simp] theorem State.setFifo_E_fifoA (s : State) (f : FifoState) : (s.setFifo .E f).fifoA = s.fifoA := rfl
@[simp] theorem State.setFifo_E_fifoE (s : State) (f : FifoState) : (s.setFifo .E f).fifoE = f := rfl

/-- Reading the FIFO just replaced. -/
@[simp] theorem State.fifo_setFifo (s : State) (x : Fifo) (f : FifoState) : (s.setFifo x f).fifo x = f := by
  cases x <;> rfl

/-- Replacing one FIFO leaves the other. -/
theorem State.fifo_setFifo_of_ne (s : State) {x y : Fifo} (h : y ≠ x) (f : FifoState) :
    (s.setFifo x f).fifo y = s.fifo y := by
  cases x <;> cases y <;> first | rfl | exact absurd rfl h

@[simp] theorem State.setFifo_self (s : State) (x : Fifo) : s.setFifo x (s.fifo x) = s := by
  cases x <;> rfl

@[simp] theorem State.setFifo_setFifo (s : State) (x : Fifo) (f g : FifoState) :
    (s.setFifo x f).setFifo x g = s.setFifo x g := by
  cases x <;> rfl

@[simp] theorem State.raise_fifo (s : State) (e : ErrorEvent) (x : Fifo) : (s.raise e).fifo x = s.fifo x := by cases x <;> rfl
@[simp] theorem State.raise_cap (s : State) (e : ErrorEvent) (x : Fifo) : (s.raise e).cap x = s.cap x := rfl
@[simp] theorem State.emit_fifo (s : State) (r : CapRequest) (x : Fifo) : (s.emit r).fifo x = s.fifo x := by cases x <;> rfl
@[simp] theorem State.emit_cap (s : State) (r : CapRequest) (x : Fifo) : (s.emit r).cap x = s.cap x := rfl
@[simp] theorem State.refuse_fifo (s : State) (r : RefuseReason) (x : Fifo) : (s.refuse r).fifo x = s.fifo x := by cases x <;> rfl
@[simp] theorem State.refuse_cap (s : State) (r : RefuseReason) (x : Fifo) : (s.refuse r).cap x = s.cap x := rfl
@[simp] theorem State.respond_fifo (s : State) (r : Option Response) (x : Fifo) : (s.respond r).fifo x = s.fifo x := by cases x <;> rfl
@[simp] theorem State.respond_cap (s : State) (r : Option Response) (x : Fifo) : (s.respond r).cap x = s.cap x := rfl
@[simp] theorem State.faultWith_fifo (s : State) (n : Nat) (x : Fifo) : (s.faultWith n).fifo x = s.fifo x := by cases x <;> rfl
@[simp] theorem State.faultWith_cap (s : State) (n : Nat) (x : Fifo) : (s.faultWith n).cap x = s.cap x := rfl
@[simp] theorem State.setFifo_cap (s : State) (x y : Fifo) (f : FifoState) : (s.setFifo x f).cap y = s.cap y := by
  cases x <;> rfl

end Sys2Proof.Machine
end

