-- ==== Sys2Proof/Laws/Ops.lean ====
section
/-! SUPPORT. What each shared operation can do: CLR, ENQ and DEQ on the bytes held, the encoder, the arbitration. -/

namespace Sys2Proof.Machine

theorem State.cap_pos (s : State) (x : Fifo) : 0 < s.cap x := by
  cases x <;> exact Nat.succ_pos _

/-! ## CLR -/

theorem FifoState.Ok.empty {cap : Nat} (h : 0 < cap) (f : FifoState) :
    FifoState.Ok cap { f with buf := [], head := 0, tail := 0, count := 0 } :=
  ⟨rfl, rfl, h, h, Nat.zero_le _, by simp⟩

/-! ## ENQ -/

/-- A rejected ENQ writes 0 bytes and raises BufferOverflow; nothing else changes. -/
theorem State.enqueue_of_gt {s : State} {x : Fifo} {data : List Byte}
    (h : s.cap x < (s.fifo x).count + data.length) :
    s.enqueue x data = (0, s.raise (.bufferOverflow x data.length (s.fifo x).count)) := if_pos h

/-- The FIFO after an accepted ENQ. -/
theorem State.enqueue_of_le {s : State} {x : Fifo} {data : List Byte}
    (h : (s.fifo x).count + data.length ≤ s.cap x) :
    s.enqueue x data = (data.length, s.setFifo x { s.fifo x with
      buf := storeBytes (s.cap x) (s.fifo x).buf (s.fifo x).head data
      head := ((s.fifo x).head + data.length) % s.cap x
      count := (s.fifo x).count + data.length }) := if_neg (Nat.not_lt.mpr h)

/-- An accepted ENQ keeps the FIFO invariant. -/
theorem FifoState.Ok.store {cap : Nat} {f : FifoState} (hf : f.Ok cap) {data : List Byte}
    (h : f.count + data.length ≤ cap) :
    FifoState.Ok cap { f with
      buf := storeBytes cap f.buf f.head data
      head := (f.head + data.length) % cap
      count := f.count + data.length } where
  bufWf := wf_storeBytes hf.bufWf _ _
  bufWithin := within_storeBytes (Nat.lt_of_le_of_lt (Nat.zero_le _) hf.headLt) hf.bufWithin _ _
  headLt := Nat.mod_lt _ (Nat.lt_of_le_of_lt (Nat.zero_le _) hf.headLt)
  tailLt := hf.tailLt
  countLe := h
  headEq := by
    show (f.head + data.length) % cap = (f.tail + (f.count + data.length)) % cap
    rw [hf.headEq, Nat.mod_add_mod, Nat.add_assoc]

/-- An accepted ENQ appends its data to the bytes held (R40, R80). -/
theorem loadBytes_store {cap : Nat} {f : FifoState} (hf : f.Ok cap) {data : List Byte}
    (h : f.count + data.length ≤ cap) :
    loadBytes cap (storeBytes cap f.buf f.head data) f.tail (f.count + data.length) =
      loadBytes cap f.buf f.tail f.count ++ data := by
  rw [loadBytes_add]
  congr 1
  · apply loadBytes_congr
    intro j hj
    apply read_storeBytes_of_ne
    intro k hk
    rw [hf.headEq, Nat.mod_add_mod, Nat.add_assoc]
    exact index_ne (by omega) (by omega) (by omega)
  · apply List.ext_getElem (by simp)
    intro j h1 h2
    rw [getElem_loadBytes]
    have := read_storeBytes (cap := cap) hf.bufWf (i := f.head) (by omega : data.length ≤ cap) h2
    rw [← this, hf.headEq, Nat.mod_add_mod]

/-! ## DEQ -/

/-- DEQ keeps the FIFO invariant. -/
theorem FifoState.Ok.load {cap : Nat} {f : FifoState} (hf : f.Ok cap) (n : Nat) :
    FifoState.Ok cap { f with
      tail := (f.tail + min n f.count) % cap
      count := f.count - min n f.count } where
  bufWf := hf.bufWf
  bufWithin := hf.bufWithin
  headLt := hf.headLt
  tailLt := Nat.mod_lt _ (Nat.lt_of_le_of_lt (Nat.zero_le _) hf.headLt)
  countLe := Nat.le_trans (Nat.sub_le _ _) hf.countLe
  headEq := by
    show f.head = ((f.tail + min n f.count) % cap + (f.count - min n f.count)) % cap
    rw [Nat.mod_add_mod, hf.headEq, Nat.add_assoc, Nat.add_sub_cancel' (Nat.min_le_right _ _)]

/-- DEQ answers the first `n` bytes held, or all of them. -/
theorem State.dequeue_fst (s : State) (x : Fifo) (n : Nat) : (s.dequeue x n).1 = (s.live x).take n := by
  show loadBytes _ _ _ (min n _) = (loadBytes _ _ _ _).take n
  apply List.ext_getElem (by simp)
  intro j h1 h2
  rw [getElem_loadBytes, List.getElem_take, getElem_loadBytes]

/-- DEQ leaves the bytes held after the first `n`. -/
theorem State.dequeue_live (s : State) (x : Fifo) (n : Nat) : (s.dequeue x n).2.live x = (s.live x).drop n := by
  have h2 : (s.dequeue x n).2.fifo x = { s.fifo x with
      tail := ((s.fifo x).tail + min n (s.fifo x).count) % s.cap x
      count := (s.fifo x).count - min n (s.fifo x).count } := by simp [State.dequeue]
  have hc : (s.dequeue x n).2.cap x = s.cap x := by simp [State.dequeue]
  unfold State.live
  rw [h2, hc]
  show loadBytes _ _ (_ % _) _ = _
  rw [loadBytes_mod]
  apply List.ext_getElem (by simp; omega)
  intro j h3 h4
  rw [getElem_loadBytes, List.getElem_drop, getElem_loadBytes]
  rw [List.length_drop, length_loadBytes] at h4
  rw [Nat.min_eq_left (by omega), Nat.add_assoc]

@[simp] theorem State.length_live (s : State) (x : Fifo) : (s.live x).length = (s.fifo x).count := by
  simp [State.live]

/-- DEQ changes its FIFO's `tail` and `count` only. -/
theorem State.dequeue_snd (s : State) (x : Fifo) (n : Nat) : (s.dequeue x n).2 = s.setFifo x { s.fifo x with
      tail := ((s.fifo x).tail + min n (s.fifo x).count) % s.cap x
      count := (s.fifo x).count - min n (s.fifo x).count } := rfl

/-! ## The encoder -/

/-- ENCODE of one of the four types and at most 20 bytes is a packet (R105). -/
theorem encodePacket_of_le {c : Config} {ty : Byte} {len : Nat} {payload : List Byte}
    (ht : isPacketType ty = true) (hl : len ≤ 20) :
    encodePacket c ty len payload = .packet (buildPacket c.fill ty (payload.take len)) := by
  simp [encodePacket, ht, Nat.not_lt.mpr hl]

/-- A packet has 21 bytes (R58). -/
theorem length_buildPacket (fill ty : Byte) (payload : List Byte) (h : payload.length ≤ 20) :
    (buildPacket fill ty payload).length = 21 := by
  simp [buildPacket]; omega

/-! ## Producers and the link -/

/-- Everything a producer's enqueue can do (R83, R85): its data is appended, or lost and counted. -/
theorem State.produce_cases (s : State) (x : Fifo) {data : List Byte} (h : data ≠ []) :
    ((s.fifo x).count + data.length ≤ s.cap x ∧ s.produce x data = (s.enqueue x data).2) ∨
    (s.cap x < (s.fifo x).count + data.length ∧
      s.produce x data = (s.raise (.bufferOverflow x data.length (s.fifo x).count)).countDrop x) := by
  by_cases hc : (s.fifo x).count + data.length ≤ s.cap x
  · left
    refine ⟨hc, if_neg ?_⟩
    rw [State.enqueue_of_le hc]
    exact fun h0 => h (List.length_eq_zero_iff.mp h0)
  · right
    refine ⟨by omega, ?_⟩
    rw [State.produce, State.enqueue_of_gt (by omega), if_pos rfl]

/-- A hand-off, in the words of the claims (R118). -/
theorem State.send_eq (s : State) (pkt : Packet) (linkOk : Bool) : s.send pkt linkOk = s.afterHandOff pkt linkOk := by
  cases linkOk <;> rfl

/-- A DEQ of no more than is held, in the words of the claims (R74). -/
theorem State.dequeue_of_le (s : State) (x : Fifo) {n : Nat} (h : n ≤ (s.fifo x).count) :
    (s.dequeue x n).2 = s.setFifo x ((s.fifo x).without (s.cap x) n) := by
  rw [State.dequeue_snd, Nat.min_eq_left h]
  rfl

/-- The next packet of an idle link is the arbitration's. -/
theorem State.nextPacket_of_idle {s : State} (h : s.txBusy = false) (b : Bool) :
    s.nextPacket b = match s.arbitrate b with
      | some (.packet pkt, _) => some pkt
      | _ => none := by
  unfold State.nextPacket
  rw [if_neg (by simp [h])]
  split <;> simp_all

/-! ## The arbitration (R114, R112): the encoder always answers a packet. -/

/-- Everything the arbitration can choose. -/
theorem State.arbitrate_cases (s : State) (b : Bool) :
    (s.markerPending = true ∧ s.arbitrate b =
      some (.packet (buildPacket s.cfg.fill 0xC0 (le32 s.markerTick)), { s with markerPending := false })) ∨
    (s.markerPending = false ∧ s.cfg.slice ≤ s.fifoE.count ∧ s.arbitrate b =
      some (.packet (buildPacket s.cfg.fill 0xB0 ((s.live .E).take s.cfg.slice)), (s.dequeue .E s.cfg.slice).2)) ∨
    (s.markerPending = false ∧ s.fifoE.count < s.cfg.slice ∧ 20 ≤ s.fifoA.count ∧ s.arbitrate b =
      some (.packet (buildPacket s.cfg.fill 0xA0 ((s.live .A).take 20)), (s.dequeue .A 20).2)) ∨
    (s.markerPending = false ∧ s.fifoE.count < s.cfg.slice ∧ s.fifoA.count < 20 ∧ b = true ∧
      s.cfg.busyPayload = .analogPartial ∧ s.arbitrate b =
      some (.packet (buildPacket s.cfg.fill 0xD0 (s.live .A)), (s.dequeue .A 20).2)) ∨
    (s.markerPending = false ∧ s.fifoE.count < s.cfg.slice ∧ s.fifoA.count < 20 ∧ b = true ∧
      s.cfg.busyPayload = .nothing ∧ s.arbitrate b = some (.packet (buildPacket s.cfg.fill 0xD0 []), s)) ∨
    (s.markerPending = false ∧ s.fifoE.count < s.cfg.slice ∧ s.fifoA.count < 20 ∧ b = false ∧
      s.arbitrate b = none) := by
  have hslice : s.cfg.slice ≤ 20 := by unfold Config.slice; cases s.cfg.edgeSlice <;> decide
  unfold State.arbitrate
  by_cases hm : s.markerPending = true
  · left
    refine ⟨hm, ?_⟩
    rw [if_pos hm, encodePacket_of_le rfl (by decide)]
    rfl
  have hm' : s.markerPending = false := by simpa using hm
  rw [if_neg hm]
  right
  by_cases he : s.cfg.slice ≤ s.fifoE.count
  · left
    refine ⟨hm', he, ?_⟩
    rw [if_pos he, State.dequeue_fst, encodePacket_of_le rfl hslice, List.take_take, Nat.min_self]
  rw [if_neg he]
  right
  by_cases ha : 20 ≤ s.fifoA.count
  · left
    refine ⟨hm', by omega, ha, ?_⟩
    rw [if_pos ha, State.dequeue_fst, encodePacket_of_le rfl (by decide), List.take_take, Nat.min_self]
  rw [if_neg ha]
  right
  cases b with
  | false => right; right; exact ⟨hm', by omega, by omega, rfl, rfl⟩
  | true =>
    rw [if_pos rfl]
    cases hb : s.cfg.busyPayload with
    | analogPartial =>
      left
      refine ⟨hm', by omega, by omega, rfl, rfl, ?_⟩
      have hl : (s.live .A).length ≤ 20 := by rw [State.length_live]; exact (by omega : s.fifoA.count ≤ 20)
      show some (encodePacket _ _ _ _, _) = _
      rw [State.dequeue_fst, encodePacket_of_le rfl (by rw [List.length_take]; omega), List.take_of_length_le hl,
        List.take_of_length_le (Nat.le_refl _)]
    | nothing =>
      right; left
      refine ⟨hm', by omega, by omega, rfl, rfl, ?_⟩
      show some (encodePacket _ _ _ _, _) = _
      rw [encodePacket_of_le rfl (by decide)]
      rfl

end Sys2Proof.Machine
end

