-- ==== Sys2Proof/Laws/Exec.lean ====
section
/-! SUPPORT. What `exec` can answer: its inversion, and the inversion of the transmit opportunity. -/

namespace Sys2Proof.Machine

/-! ## Transactions -/

/-- A transaction that a block without a fault takes. -/
theorem taken_of_ok {s : State} (h : s.fault = none) (body : State → State) : taken s body = .next (body s) := by
  simp [taken, h]

/-- A faulted block takes no transaction. -/
theorem taken_of_faulted {s : State} (h : s.fault ≠ none) (body : State → State) : taken s body = .next s := by
  rw [taken, if_pos (Option.isSome_iff_ne_none.mpr h)]

/-- What each transaction but RST does to a block without a fault. -/
def bodyOf : Instr → State → State
  | .rst => State.powerOn
  | .adcDone block => adcDoneBody block
  | .edge tick pin => edgeBody tick pin
  | .cmdRx frame tick => commandStep (commandBody frame tick)
  | .txOpp adcBusy linkOk => fun s => s.transmitOpportunity adcBusy linkOk
  | .txDone => txDoneBody
  | .clr x => fun s => (s.clearFifo x).respond none
  | .enq x data => fun s => (s.enqueue x data).2.respond (some (.written (s.enqueue x data).1))
  | .deq x n => fun s => (s.dequeue x n).2.respond (some (.bytes (s.dequeue x n).1))
  | .empty x => fun s => s.respond (some (.bit (s.fifo x).isEmpty))
  | .full x => fun s => s.respond (some (.bit ((s.fifo x).isFull (s.cap x))))
  | .len x => fun s => s.respond (some (.length (s.fifo x).count))
  | .start tick => commandStep (doStart tick)
  | .stop _ => commandStep doStop
  | .reset _ => commandStep doReset
  | .trgmode _ => commandStep doTrgmode
  | .intmode _ => commandStep doIntmode
  | .cmdOther frame _ => commandStep fun s => s.raise (.unrecognizedCommand frame)
  | .pktAnalog payload => fun s => s.putOnChannel false (0xA0 :: payload)
  | .pktEdge payload => fun s => s.putOnChannel false (0xB0 :: payload)
  | .pktStart payload => fun s => s.putOnChannel false (0xC0 :: payload)
  | .pktBusy payload => fun s => s.putOnChannel true (0xD0 :: payload)
  | .encodeReq ty len payload => encodeBody ty len payload

theorem exec_of_ne_rst {i : Instr} (h : i ≠ .rst) (s : State) : exec i s = taken s (bodyOf i) := by
  cases i <;> first | rfl | exact absurd rfl h

/-- What `exec` answers in a block without a fault. -/
theorem exec_of_ok {s : State} (h : s.fault = none) (i : Instr) : exec i s = .next (bodyOf i s) := by
  by_cases hi : i = .rst
  · subst hi; rfl
  · rw [exec_of_ne_rst hi, taken_of_ok h]

/-- Everything `exec` can answer a next state for. -/
theorem exec_cases {i : Instr} {s t : State} (h : exec i s = .next t) :
    (i = .rst ∧ t = s.powerOn) ∨ (i ≠ .rst ∧ s.fault ≠ none ∧ t = s) ∨
      (i ≠ .rst ∧ s.fault = none ∧ t = bodyOf i s) := by
  by_cases hi : i = .rst
  · subst hi
    exact .inl ⟨rfl, (Host.Outcome.next.inj h).symm⟩
  · rw [exec_of_ne_rst hi] at h
    by_cases hf : s.fault = none
    · rw [taken_of_ok hf] at h
      exact .inr (.inr ⟨hi, hf, (Host.Outcome.next.inj h).symm⟩)
    · rw [taken_of_faulted hf] at h
      exact .inr (.inl ⟨hi, hf, (Host.Outcome.next.inj h).symm⟩)

/-! ## The transmit opportunity (R114) -/

/-- The state an opportunity's packet is taken from, and the packet's payload bytes. -/
inductive Taken (s : State) : List Byte → State → Prop where
  | marker : Taken s (le32 s.markerTick) { s with markerPending := false }
  | slice (x : Fifo) (n : Nat) : Taken s ((s.live x).take n) (s.dequeue x n).2
  | nothing : Taken s [] s

/-- Everything a transmit opportunity can do. -/
theorem State.transmitOpportunity_cases (s : State) (b l : Bool) :
    (s.txBusy = true ∧ s.transmitOpportunity b l = s.raise (.linkBusy .deferred)) ∨
    (s.txBusy = false ∧ s.arbitrate b = none ∧ s.transmitOpportunity b l = s) ∨
    (s.txBusy = false ∧ ∃ ty payload s1, isPacketType ty = true ∧ payload.length ≤ 20 ∧ Taken s payload s1 ∧
      s.arbitrate b = some (.packet (buildPacket s.cfg.fill ty payload), s1) ∧
      s.transmitOpportunity b l = s1.send (buildPacket s.cfg.fill ty payload) l) := by
  have hslice : s.cfg.slice ≤ 20 := by unfold Config.slice; cases s.cfg.edgeSlice <;> decide
  unfold State.transmitOpportunity
  cases hb : s.txBusy with
  | true => exact .inl ⟨rfl, rfl⟩
  | false =>
    right
    rcases s.arbitrate_cases b with ⟨_, h⟩ | ⟨_, _, h⟩ | ⟨_, _, _, h⟩ | ⟨_, _, ha, _, _, h⟩ | ⟨_, _, _, _, _, h⟩ |
      ⟨_, _, _, _, h⟩
    · exact .inr ⟨rfl, 0xC0, _, _, rfl, by simp [le32], .marker, h, by rw [h]; rfl⟩
    · exact .inr ⟨rfl, 0xB0, _, _, rfl, by rw [List.length_take]; omega, .slice .E _, h, by rw [h]; rfl⟩
    · exact .inr ⟨rfl, 0xA0, _, _, rfl, by rw [List.length_take]; omega, .slice .A _, h, by rw [h]; rfl⟩
    · have hl : (s.live .A).length = s.fifoA.count := s.length_live .A
      refine .inr ⟨rfl, 0xD0, (s.live .A).take 20, _, rfl, by rw [List.length_take]; omega, .slice .A 20, ?_, ?_⟩
      · rw [h, List.take_of_length_le (by omega)]
      · rw [h, List.take_of_length_le (by omega)]; rfl
    · exact .inr ⟨rfl, 0xD0, _, _, rfl, by simp, .nothing, h, by rw [h]; rfl⟩
    · exact .inl ⟨rfl, h, by rw [h]; rfl⟩

/-- A packet row is an accepted opportunity, or a refusal. -/
theorem State.putOnChannel_cases (s : State) (b : Bool) (pkt : Packet) :
    s.putOnChannel b pkt = s.transmitOpportunity b true ∨ s.putOnChannel b pkt = s.refuse .packetNotProduced := by
  unfold State.putOnChannel
  split
  · exact .inl rfl
  · exact .inr rfl

end Sys2Proof.Machine
end

