-- ==== Sys2Proof/Laws/Step.lean ====
section
/-! SUPPORT. What one step can do: its inversion, and the step of a rejected transaction. -/

namespace Sys2Proof.Machine

/-- What is delivered when the front of the stimulus is rejected by the decoder. -/
theorem State.fetch_of_rejected {s : State} {p : Port} {b : Byte} {bs rest : List Byte} {segs : List Segment}
    {r : RefuseReason} (hs : s.stim = ⟨p, b :: bs⟩ :: segs) (hd : decode s.cfg p (b :: bs) = .rejected r rest) :
    s.fetch = .rejected p r (restOf p rest segs) := by
  simp only [State.fetch, hs, skipEmpty, hd]

/-- The step of a rejected transaction, offered to a block without a fault. -/
theorem step_of_rejected {s : State} {p : Port} {b : Byte} {bs rest : List Byte} {segs : List Segment}
    {r : RefuseReason} (hf : s.fault = none) (hs : s.stim = ⟨p, b :: bs⟩ :: segs)
    (hd : decode s.cfg p (b :: bs) = .rejected r rest) :
    step s = .next (({ s with stim := restOf p rest segs } : State).refuseOn p r) := by
  unfold step
  rw [State.fetch_of_rejected hs hd]
  exact taken_of_ok (s := { s with stim := restOf p rest segs }) hf _

/-- Everything a step can answer a next state for: nothing was left to deliver, a transaction ran, or a rejected one
was offered to a faulted block or refused. -/
theorem step_cases {s t : State} (h : step s = .next t) :
    t = s ∨ (∃ i st, exec i { s with stim := st } = .next t) ∨
      (∃ p r st, t = ({ s with stim := st } : State) ∨ t = ({ s with stim := st } : State).refuseOn p r) := by
  unfold step at h
  split at h
  · exact .inl (Host.Outcome.next.inj h).symm
  · exact .inr (.inl ⟨_, _, h⟩)
  · unfold taken at h
    split at h <;> cases h
    · exact .inr (.inr ⟨.evt, .badPin, _, .inl rfl⟩)
    · exact .inr (.inr ⟨_, _, _, .inr rfl⟩)
  · cases h

end Sys2Proof.Machine
end

