-- ==== Sys2Proof/Tests/Slice0.lean ====
section
/-! SUPPORT. The model's own tests; every expected result is taken from spec/. -/

namespace Sys2Proof.Machine

/-! ## Well-formedness: an ill-formed term for each check (R57, R58, R63, R65) -/

theorem test_wf_chunk_too_short : Instr.wf Config.ref (.adcDone (List.replicate 19 0)) = false := by decide
theorem test_wf_chunk : Instr.wf Config.ref (.adcDone (List.replicate 20 0)) = true := by decide
theorem test_wf_frame_too_long : Instr.wf Config.ref (.cmdRx (tokenStart ++ [0x5F]) 0) = false := by decide
theorem test_wf_count_too_wide : Instr.wf Config.ref (.deq .A 256) = false := by decide
theorem test_wf_data_too_long : Instr.wf { Config.ref with lenW := 2 } (.enq .A [1, 2, 3, 4]) = false := by decide
theorem test_wf_other_is_token : Instr.wf Config.ref (.cmdOther tokenStop 0) = false := by decide
theorem test_wf_other_frame_short : Instr.wf Config.ref (.cmdOther [0x00] 0) = false := by decide
theorem test_wf_analog_payload : Instr.wf Config.ref (.pktAnalog []) = false := by decide
theorem test_wf_edge_payload : Instr.wf Config.ref (.pktEdge []) = false := by decide
theorem test_wf_start_payload : Instr.wf Config.ref (.pktStart []) = false := by decide
theorem test_wf_busy_payload : Instr.wf Config.ref (.pktBusy []) = false := by decide
theorem test_wf_encoder_payload : Instr.wf Config.ref (.encodeReq 0xA0 2 [0xAA, 0xBB]) = false := by decide

/-! ## Decoding: the encoding vectors of 95_test_vectors.md section 2.7, and every other row's word -/

theorem test_decode_rst : decode Config.ref .evt [0x00] = .ok .rst [] := by decide
theorem test_decode_adc_done :
    decode Config.ref .evt (0x01 :: List.replicate 20 0x7E) = .ok (.adcDone (List.replicate 20 0x7E)) [] := by decide
theorem test_decode_edge :
    decode Config.ref .evt [0x02, 0x04, 0x03, 0x02, 0x01, 0x01] = .ok (.edge 0x01020304 true) [] := by decide
theorem test_decode_cmd_rx :
    decode Config.ref .evt [0x03, 0x53, 0x54, 0x41, 0x52, 0x54, 0x5F, 0x5F, 0x5F, 0x5F, 0x00, 0x01, 0x00, 0x00] =
      .ok (.cmdRx tokenStart 0x100) [] := by decide
theorem test_decode_tx_opp_busy : decode Config.ref .evt [0x04, 0x01] = .ok (.txOpp true false) [] := by decide
theorem test_decode_tx_opp_link : decode Config.ref .evt [0x04, 0x02] = .ok (.txOpp false true) [] := by decide
theorem test_decode_tx_done : decode Config.ref .evt [0x05, 0x06] = .ok .txDone [0x06] := by decide
theorem test_decode_evt_reserved : decode Config.ref .evt [0x12] = .rejected .reservedCode [] := by decide
theorem test_decode_bad_pin :
    decode Config.ref .evt [0x02, 0x04, 0x03, 0x02, 0x01, 0x02] = .rejected .badPin [] := by decide
theorem test_decode_bad_tx_opp : decode Config.ref .evt [0x04, 0x04] = .rejected .badTxOppBits [] := by decide
theorem test_decode_clr_e : decode Config.ref .fifo [0x80] = .ok (.clr .E) [] := by decide
theorem test_decode_enq :
    decode Config.ref .fifo [0x01, 0x03, 0xAA, 0xBB, 0xCC] = .ok (.enq .A [0xAA, 0xBB, 0xCC]) [] := by decide
theorem test_decode_deq : decode Config.ref .fifo [0x82, 0x05] = .ok (.deq .E 5) [] := by decide
theorem test_decode_empty : decode Config.ref .fifo [0x03] = .ok (.empty .A) [] := by decide
theorem test_decode_full : decode Config.ref .fifo [0x04] = .ok (.full .A) [] := by decide
theorem test_decode_len : decode Config.ref .fifo [0x85] = .ok (.len .E) [] := by decide
theorem test_decode_fifo_reserved : decode Config.ref .fifo [0x86] = .rejected .reservedCode [] := by decide
theorem test_decode_fifo_reserved_bit : decode Config.ref .fifo [0x08] = .rejected .reservedCode [] := by decide

/-- E5 of 95_test_vectors.md: the header bytes 14 15 are type 0xA0 and length 21. -/
theorem test_decode_encode :
    decode Config.ref .encoder (0x14 :: 0x15 :: List.replicate 20 0x01) =
      .ok (.encodeReq 0xA0 21 (List.replicate 20 0x01)) [] := by decide
/-- E7: the header bytes 0A B5 are type 0x55 and length 21. -/
theorem test_decode_encode_type :
    decode Config.ref .encoder (0x0A :: 0xB5 :: List.replicate 20 0x01) =
      .ok (.encodeReq 0x55 21 (List.replicate 20 0x01)) [] := by decide
theorem test_decode_start : decodeTableWord 72 0x53544152545F5F5F5F = some (.start 0) := by decide
theorem test_decode_stop : decodeTableWord 72 0x53544F505F5F5F5F5F = some (.stop 0) := by decide
theorem test_decode_reset : decodeTableWord 72 0x52455345545F5F5F5F = some (.reset 0) := by decide
theorem test_decode_trgmode : decodeTableWord 72 0x5452474D4F44455F5F = some (.trgmode 0) := by decide
theorem test_decode_intmode : decodeTableWord 72 0x494E544D4F44455F5F = some (.intmode 0) := by decide
/-- M8: the lower-case token is no command. -/
theorem test_decode_cmd_other :
    decodeTableWord 72 0x73746172745F5F5F5F =
      some (.cmdOther [0x73, 0x74, 0x61, 0x72, 0x74, 0x5F, 0x5F, 0x5F, 0x5F] 0) := by decide
theorem test_decode_pkt_analog :
    decodeTableWord 168 0xA00000000000000000000000000000000000000013 =
      some (.pktAnalog (List.replicate 19 0x00 ++ [0x13])) := by decide
theorem test_decode_pkt_edge :
    decodeTableWord 168 0xB00403020101FFFFFFFFFFFFFFFFFFFFFFFFFFFFFF =
      some (.pktEdge ([0x04, 0x03, 0x02, 0x01, 0x01] ++ List.replicate 15 0xFF)) := by decide
theorem test_decode_pkt_start :
    decodeTableWord 168 0xC000010000FFFFFFFFFFFFFFFFFFFFFFFFFFFFFFFF =
      some (.pktStart ([0x00, 0x01, 0x00, 0x00] ++ List.replicate 16 0xFF)) := by decide
theorem test_decode_pkt_busy :
    decodeTableWord 168 0xD0FFFFFFFFFFFFFFFFFFFFFFFFFFFFFFFFFFFFFFFF =
      some (.pktBusy (List.replicate 20 0xFF)) := by decide

/-! ## Programs (R70): parts of Q2 and Q3, and a component program of vectors E1 and F10 -/

theorem test_encode_program_q2 : encodeProgram Config.ref .evt (sendOne true) = ⟨.evt, [0x04, 0x03, 0x05]⟩ := by decide
theorem test_encode_program_q3 : encodeProgram Config.ref .fifo (edgeRec .E 0x01020304 0x01 ++ [.len .E, .clr .E, .empty .E]) =
    ⟨.fifo, [0x81, 0x05, 0x04, 0x03, 0x02, 0x01, 0x01, 0x85, 0x80, 0x83]⟩ := by decide
theorem test_decode_component_program :
    decodeProgram Config.ref ⟨.component, [0x05, 0x16, 0x05, 0x04, 0x03, 0x02, 0x01, 0x01] ++ List.replicate 15 0 ++ [0x80]⟩ =
      some [.len .A, .encodeReq 0xB0 5 ([0x04, 0x03, 0x02, 0x01, 0x01] ++ List.replicate 15 0), .clr .E] := by decide
theorem test_decode_component_reserved : decode Config.ref .component [0x86] = .rejected .reservedCode [] := by decide
/-- Log 11, in a build with `LEN_W = 5`: the bytes after the carrier are read as the next request. -/
theorem test_decode_enq_count :
    decode { Config.ref with lenW := 5 } .fifo [0x01, 0x20, 0x05] = .rejected .badCount [0x05] := by decide

/-! ## One step: the vectors of 95_test_vectors.md, by their names there -/

/-- What `f` reads in the next state an outcome answers, if it answers one. -/
def seen {α : Type} (f : State → α) : Host.Outcome State Fault Refusal → Option α
  | .next t => some (f t)
  | .fault _ => none
  | .refused _ => none

/-- SMALL, on the FIFO port. -/
def small : State := { State.reset with cfg := { Config.ref with lastA := 7, lastE := 7 } }

/-- FIFO `A` after F2. -/
def full8 : State := (small.enqueue .A [1, 2, 3, 4, 5, 6, 7, 8]).2

/-- FIFO `A` before F5. -/
def at6 : State := { small with fifoA := { FifoState.empty with head := 6, tail := 6 } }

/-- The block running in the continuous style. -/
def continuous : State := { State.reset with run := .running, cfgMode := .continuous, adcEn := true, edgeEn := true }

/-- After M5: running in the triggered style, the marker pending. -/
def triggered : State := { State.reset with
  run := .running, cfgMode := .triggered, adcEn := true, edgeEn := true, burst := .armed
  markerPending := true, markerTick := 0x100 }

/-- A state that holds `bytes` in FIFO `x`. -/
def holding (s : State) (x : Fifo) (bytes : List Byte) : State := (s.enqueue x bytes).2

/-- F3: a full FIFO takes nothing. -/
theorem test_enq_f3 : seen (fun t => (t.resp, t.fifoA, t.errlog)) (exec (.enq .A [9]) full8) =
    some (some (.written 0), full8.fifoA, [.bufferOverflow .A 1 8]) := by decide
/-- F5: the write wraps. -/
theorem test_enq_f5 : seen (fun t => (t.resp, t.fifoA)) (exec (.enq .A [0x11, 0x22, 0x33, 0x44]) at6) =
    some (some (.written 4), { buf := [(0, 0x33), (1, 0x44), (6, 0x11), (7, 0x22)], head := 2, tail := 6, count := 4, drop := 0 })
    := by decide
/-- F6: the read wraps. -/
theorem test_deq_f6 : seen (fun t => (t.resp, t.fifoA.head, t.fifoA.tail, t.fifoA.count))
    (exec (.deq .A 3) (holding at6 .A [0x11, 0x22, 0x33, 0x44])) =
      some (some (.bytes [0x11, 0x22, 0x33]), 2, 1, 1) := by decide
/-- F8: an empty FIFO answers no byte and no error. -/
theorem test_deq_f8 : seen (fun t => (t.resp, t.fifoA, t.errlog)) (exec (.deq .A 4) small) =
    some (some (.bytes []), small.fifoA, []) := by decide
/-- F11. -/
theorem test_clr_f11 : seen (fun t => t.fifoA) (exec (.clr .A) full8) = some FifoState.empty := by decide
/-- F2 and F13: `head = tail` in a full FIFO. -/
theorem test_empty_f13 : seen (fun t => (t.fifoA.head, t.fifoA.tail, t.resp)) (exec (.empty .A) full8) =
    some (0, 0, some (.bit false)) := by decide
theorem test_full_f2 : seen (fun t => t.resp) (exec (.full .A) full8) = some (some (.bit true)) := by decide
/-- F10. -/
theorem test_len_f10 : seen (fun t => t.resp) (exec (.len .A) full8) = some (some (.length 8)) := by decide

/-- P3 and P12: a chunk without room is lost, and the drop counter wraps. -/
theorem test_adc_done_p12 :
    seen (fun t => (t.fifoA, t.errlog)) (exec (.adcDone (List.replicate 20 0x55))
      { continuous with fifoA := { FifoState.empty with count := 60, head := 60, drop := 0xFFFFFFFF } }) =
      some ({ FifoState.empty with count := 60, head := 60, drop := 0 }, [.bufferOverflow .A 20 60]) := by decide
/-- P4. -/
theorem test_adc_done_p4 : seen (fun t => (t.refused, t.fifoA)) (exec (.adcDone (List.replicate 19 0x55)) continuous) =
    some (some .badChunkLength, FifoState.empty) := by decide
/-- P5: the record, and the burst timer. -/
theorem test_edge_p5 :
    seen (fun t => (t.live .E, t.fifoE.count, t.burst, t.caplog)) (exec (.edge 0x01020304 true) triggered) =
      some ([0x04, 0x03, 0x02, 0x01, 0x01], 5, .running, [.receiveBytes 9, .startTimer 1]) := by decide
/-- P7: the timer is requested although the record is lost. -/
theorem test_edge_p7 :
    seen (fun t => (t.fifoE.count, t.fifoE.drop, t.burst, t.caplog, t.errlog)) (exec (.edge 0x5 false)
      { triggered with fifoE := { FifoState.empty with count := 40 } }) =
      some (40, 1, .running, [.receiveBytes 9, .startTimer 1], [.bufferOverflow .E 5 40]) := by decide

/-- M5. -/
theorem test_start_m5 : seen (fun t => (t.status, t.fifoA.count, t.markerTick, t.caplog))
    (exec (.start 0x100) (holding { State.reset with cfgMode := .triggered } .A [1, 2, 3, 4, 5, 6, 7])) =
      some (0x02BD, 0, 0x100, [.receiveBytes 9, .receiveBytes 9]) := by decide
/-- M2. -/
theorem test_start_m2 : seen (fun t => (t.status, t.caplog)) (exec (.start 0) { State.reset with cfgMode := .continuous }) =
    some (0x021B, [.receiveBytes 9, .startAnalogAcquisition, .receiveBytes 9]) := by decide
/-- M6: the marker stays pending. -/
theorem test_stop_m6 : seen (fun t => (t.status, t.caplog)) (exec (.stop 0) triggered) =
    some (0x0284, [.receiveBytes 9, .stopAnalogAcquisition, .stopTimer 1, .receiveBytes 9]) := by decide
/-- R-7. -/
theorem test_reset_r7 : seen (fun t => (t.status, t.caplog)) (exec (.reset 0) State.reset) =
    some (0x0200, [.receiveBytes 9, .stopAnalogAcquisition, .stopTimer 1, .receiveBytes 9]) := by decide
/-- M14. -/
theorem test_reset_m14 : seen (fun t => t.txBusy) (exec (.reset 0) { State.reset with txBusy := true }) = some true := by
  decide
/-- M7, from (Running, Continuous) with bytes in FIFO `A`. -/
theorem test_trgmode_m7 : seen (fun t => (t.status, t.fifoA.count)) (exec (.trgmode 0) (holding continuous .A [1, 2, 3])) =
    some (0x0204, 0) := by decide
/-- M13. -/
theorem test_intmode_m13 : seen (fun t => (t.status, t.markerTick)) (exec (.intmode 0) triggered) = some (0x0202, 0) := by
  decide
/-- M8: a token in lower case is no command. -/
theorem test_cmd_rx_m8 : seen (fun t => (t.status, t.errlog, t.caplog))
    (exec (.cmdRx [0x73, 0x74, 0x61, 0x72, 0x74, 0x5F, 0x5F, 0x5F, 0x5F] 0) continuous) =
      some (0x021B, [.unrecognizedCommand [0x73, 0x74, 0x61, 0x72, 0x74, 0x5F, 0x5F, 0x5F, 0x5F]],
        [.receiveBytes 9, .receiveBytes 9]) := by decide
/-- M5 on the block port. -/
theorem test_cmd_rx_m5 : seen State.status (exec (.cmdRx [0x53, 0x54, 0x41, 0x52, 0x54, 0x5F, 0x5F, 0x5F, 0x5F] 0x100)
    { State.reset with cfgMode := .triggered }) = some 0x02BD := by decide
/-- M9. -/
theorem test_cmd_other_m9 : seen (fun t => (t.status, t.errlog)) (exec (.cmdOther (List.replicate 9 0) 0) triggered) =
    some (0x02BD, [.unrecognizedCommand (List.replicate 9 0)]) := by decide

/-- E5: the fault, its entry and STATUS bit 10. -/
theorem test_encode_e5 : seen (fun t => (t.fault, t.errlog, t.status, t.resp))
    (exec (.encodeReq 0xA0 21 (List.replicate 20 0x01)) State.reset) =
      some (some (.payloadTooLarge 21), [.payloadTooLarge 21], 0x0600, none) := by decide
/-- E9: the bytes at and past `len` are ignored. -/
theorem test_encode_e9 : seen (fun t => t.resp)
    (exec (.encodeReq 0xA0 2 ([0xAA, 0xBB, 0xCC, 0xDD] ++ List.replicate 16 0)) State.reset) =
      some (some (.packet ([0xA0, 0xAA, 0xBB] ++ List.replicate 18 0xFF))) := by decide

/-- T5: the heartbeat takes the partial slice. -/
theorem test_tx_opp_t5 : seen (fun t => (t.txlog, t.fifoA.count))
    (exec (.txOpp true true) (holding continuous .A [1, 2, 3, 4, 5, 6, 7])) =
      some ([[0xD0, 1, 2, 3, 4, 5, 6, 7] ++ List.replicate 13 0xFF], 0) := by decide
/-- T11: a rejected hand-off. -/
theorem test_tx_opp_t11 :
    seen (fun t => (t.fifoA.count, t.txBusy, t.errlog, t.caplog))
      (exec (.txOpp false false) (holding continuous .A (List.replicate 20 0x41))) =
      some (0, false, [.linkBusy .lost],
        [.receiveBytes 9, .transmitBytes (0xA0 :: List.replicate 20 0x41) 21]) := by decide
/-- T14 and T15. -/
theorem test_tx_done_t14 : seen (fun t => t.txBusy) (exec .txDone { State.reset with txBusy := true }) = some false := by
  decide
theorem test_tx_done_t15 : exec .txDone continuous = .next continuous := by rfl
/-- T2. -/
theorem test_pkt_start_t2 : seen (fun t => (t.txlog, t.markerPending, t.txBusy))
    (exec (.pktStart ([0x00, 0x01, 0x00, 0x00] ++ List.replicate 16 0xFF)) triggered) =
      some ([[0xC0, 0x00, 0x01, 0x00, 0x00] ++ List.replicate 16 0xFF], false, true) := by decide
/-- T13, with `EDGE_SLICE = 5`. -/
theorem test_pkt_edge_t13 : seen (fun t => (t.txlog, t.fifoE.count))
    (exec (.pktEdge ([0x04, 0x03, 0x02, 0x01, 0x01] ++ List.replicate 15 0xFF))
      (holding { State.reset with cfg := { Config.ref with edgeSlice := .five } } .E [0x04, 0x03, 0x02, 0x01, 0x01])) =
      some ([[0xB0, 0x04, 0x03, 0x02, 0x01, 0x01] ++ List.replicate 15 0xFF], 0) := by decide
/-- T4: fifteen edge bytes stay. -/
theorem test_pkt_analog_t4 : seen (fun t => (t.txlog, t.fifoA.count, t.fifoE.count))
    (exec (.pktAnalog (List.replicate 20 0x40))
      (holding (holding State.reset .A (List.replicate 20 0x40)) .E (List.replicate 15 0x01))) =
      some ([0xA0 :: List.replicate 20 0x40], 0, 15) := by decide
/-- T6: with `BUSY_PAYLOAD = NONE` the bytes stay. -/
theorem test_pkt_busy_t6 : seen (fun t => (t.txlog, t.fifoA.count))
    (exec (.pktBusy (List.replicate 20 0xFF))
      (holding { State.reset with cfg := { Config.ref with busyPayload := .nothing } } .A [1, 2, 3, 4, 5, 6, 7])) =
      some ([0xD0 :: List.replicate 20 0xFF], 7) := by decide

/-- R-1. -/
theorem test_rst_r1 : seen (fun t => (t.status, t.caplog, t.txlog, t.errlog)) (exec .rst triggered) =
    some (0x0200, [.receiveBytes 9], [], []) := by decide
/-- R-6: a faulted block takes no transaction. -/
theorem test_step_r6 :
    step { State.reset with fault := some (.payloadTooLarge 21), stim := [⟨.evt, [0x04, 0x03]⟩] } =
      .next { State.reset with fault := some (.payloadTooLarge 21) } := by rfl
/-- R-3: a reserved code. -/
theorem test_step_r3 : seen (fun t => (t.refused, t.status, t.errlog)) (step { State.reset with stim := [⟨.evt, [0x06]⟩] }) =
    some (some .reservedCode, 0x0200, []) := by decide
/-- The start of a triggered run, on the block port (first line of program Q1). -/
theorem test_step_evt : seen (fun t => (t.status, t.stim)) (step { State.reset with
    stim := [⟨.evt, [0x03, 0x54, 0x52, 0x47, 0x4D, 0x4F, 0x44, 0x45, 0x5F, 0x5F, 0x00, 0x00, 0x00, 0x00, 0x05]⟩] }) =
      some (0x0204, [⟨.evt, [0x05]⟩]) := by decide
/-- A stream that ends inside a transaction. -/
theorem test_step_truncated : step { State.reset with stim := [⟨.evt, [0x04]⟩] } = .fault .truncatedTransaction := by rfl
/-- An opcode-table word is fetched and run first. -/
theorem test_fetch_word : seen (fun t => t.stim) (step (State.reset.withFetchWord 8 0x05)) = some [] := by decide

end Sys2Proof.Machine
end

