-- ==== Sys2Proof/Tests/Witnesses.lean ====
section
/-! SUPPORT. For each statement with hypotheses, a concrete state and operands that meet all of them together. -/

namespace Sys2Proof.Machine

theorem ok_iff (cap : Nat) (f : FifoState) : f.Ok cap ↔ Memory.wf f.buf = true ∧ Memory.within cap f.buf = true ∧
    f.head < cap ∧ f.tail < cap ∧ f.count ≤ cap ∧ f.head = (f.tail + f.count) % cap :=
  ⟨fun h => ⟨h.1, h.2, h.3, h.4, h.5, h.6⟩, fun ⟨a, b, c, d, e, f⟩ => ⟨a, b, c, d, e, f⟩⟩

/-- A block that holds `a` bytes in FIFO `A` and `e` bytes in FIFO `E`. -/
def loaded (s : State) (a e : Nat) : State := holding (holding s .A (List.replicate a 0x41)) .E (List.replicate e 0x45)

/-- A block with a packet in flight. -/
def sending : State := { continuous with
  txBusy := true, txPkt := 0xA0 :: List.replicate 20 0x41, txlog := [0xA0 :: List.replicate 20 0x41] }

/-- A build with `EDGE_SLICE = 5`. -/
def five : State := { State.reset with cfg := { Config.ref with edgeSlice := .five } }

/-- A build with `BUSY_PAYLOAD = NONE`. -/
def bare : State := { State.reset with cfg := { Config.ref with busyPayload := .nothing } }

/-- A faulted block. -/
def faulted : State := { State.reset with
  fault := some (.payloadTooLarge 21), errlog := [.payloadTooLarge 21] }

/-! ## Encoding and steps -/

theorem witness_DecodeReadsEveryEncoding :
    Instr.wf Config.ref (.enq .E [0xFF]) = true ∧ Instr.wf Config.ref (.deq .A 255) = true ∧
    Instr.wf Config.ref (.adcDone (List.replicate 20 0)) = true ∧
    Instr.wf Config.ref (.cmdOther (List.replicate 9 0) 0) = true ∧
    Instr.wf Config.ref (.encodeReq 0xA0 31 (List.replicate 20 0)) = true := by decide

theorem witness_DecodeReadsEveryEncoding_component :
    Instr.wf Config.ref (.encodeReq 0x30 5 (List.replicate 20 0)) = true ∧
    carries .component (.encodeReq 0x30 5 (List.replicate 20 0)) = true ∧
    Instr.wf Config.ref (.clr .E) = true ∧ carries .component (.clr .E) = true := by decide

theorem witness_DecodedBytesAreTheEncoding : decode Config.ref .fifo [0x82, 0xFF, 0x07] = .ok (.deq .E 255) [0x07] := by
  decide

theorem witness_StepRunsTheDecodedInstruction :
    ({ State.reset with stim := [⟨.evt, [0x05, 0x00]⟩] } : State).stim = ⟨.evt, [0x05, 0x00]⟩ :: [] ∧
    decode State.reset.cfg .evt [0x05, 0x00] = .ok .txDone [0x00] ∧ Instr.wf State.reset.cfg .txDone = true := by decide

theorem witness_ReservedTransactionsAreRefused_evt : State.reset.fault = none ∧ 6 ≤ (0x06 : Byte).toNat ∧
    ({ State.reset with stim := [⟨.evt, [0x06]⟩] } : State).stim = ⟨.evt, 0x06 :: []⟩ :: [] := by decide
theorem witness_ReservedTransactionsAreRefused_fifo : State.reset.fault = none ∧ 6 ≤ (0x86 : Byte).toNat % 128 ∧
    ({ State.reset with stim := [⟨.fifo, [0x86]⟩] } : State).stim = ⟨.fifo, 0x86 :: []⟩ :: [] := by decide
theorem witness_ReservedTransactionsAreRefused_component :
    State.reset.fault = none ∧ 32 ≤ (0x26 : Byte).toNat ∧ 6 ≤ (0x26 : Byte).toNat % 128 ∧
    ({ State.reset with stim := [⟨.component, [0x26]⟩] } : State).stim = ⟨.component, 0x26 :: []⟩ :: [] := by decide
theorem witness_ReservedTransactionsAreRefused_pin : State.reset.fault = none ∧ 2 ≤ (0x02 : Byte).toNat ∧
    ({ State.reset with stim := [⟨.evt, [0x02, 4, 3, 2, 1, 0x02]⟩] } : State).stim =
      ⟨.evt, 0x02 :: 4 :: 3 :: 2 :: 1 :: 0x02 :: []⟩ :: [] := by decide
theorem witness_ReservedTransactionsAreRefused_txOpp : State.reset.fault = none ∧ 4 ≤ (0x04 : Byte).toNat ∧
    ({ State.reset with stim := [⟨.evt, [0x04, 0x04]⟩] } : State).stim = ⟨.evt, 0x04 :: 0x04 :: []⟩ :: [] := by decide

theorem witness_FaultedBlockTakesNoTransaction : faulted.fault ≠ none ∧ Instr.txOpp true true ≠ .rst := by decide

theorem witness_OnlyTheEncoderPortFaults :
    ∃ t, exec (.encodeReq 0xA0 21 (List.replicate 20 0)) State.reset = .next t ∧ State.reset.fault = none ∧
      t.fault ≠ none := ⟨_, rfl, by decide, by decide⟩

theorem witness_ObservationOnlyGrows :
    ∃ t, exec (.txOpp false true) triggered = .next t ∧ Instr.txOpp false true ≠ .rst := ⟨_, rfl, by decide⟩
theorem witness_ObservationOnlyGrows_mark :
    ∃ t, exec (.adcDone []) { State.reset with refused := some .badPin } = .next t ∧ Instr.adcDone [] ≠ .rst ∧
      ({ State.reset with refused := some .badPin } : State).refused = some .badPin := ⟨_, rfl, by decide, by decide⟩

theorem witness_NoStepChangesTheBuild :
    ∃ t, step { small with stim := [⟨.evt, [0x00]⟩] } = .next t := ⟨_, rfl⟩

/-! ## The FIFO port -/

theorem witness_ClrEmptiesTheFifo : full8.fault = none := by decide
theorem witness_EnqStoresEveryByte : at6.fault = none ∧ Memory.wf (at6.fifo .A).buf = true ∧
    (at6.fifo .A).count + [1, 2, 3, 4, 5, 6, 7, (8 : Byte)].length ≤ at6.cap .A := by decide
theorem witness_EnqIsAllOrNothing_zero : full8.fault = none ∧ 1 ≤ [(9 : Byte)].length := by decide
theorem witness_EnqIsAllOrNothing :
    full8.fault = none ∧ full8.cap .A < (full8.fifo .A).count + [(9 : Byte)].length := by decide
theorem witness_DeqTakesFromTheTail : full8.fault = none := by decide
theorem witness_QueriesAnswerFromCount : full8.fault = none ∧ (full8.fifo .A).count ≤ full8.cap .A := by decide
theorem witness_FifoOrderLaw : full8.fault = none ∧ (full8.fifo .A).Ok (full8.cap .A) := by
  rw [ok_iff]
  decide

/-! ## The producers -/

theorem witness_AdcDoneAppendsItsChunk :
    (loaded continuous 44 0).fault = none ∧ (loaded continuous 44 0).fifoA.Ok ((loaded continuous 44 0).cap .A) ∧
    (loaded continuous 44 0).adcEn = true ∧
    (List.replicate 20 (0 : Byte)).length = (loaded continuous 44 0).cfg.analogChunk ∧
    (loaded continuous 44 0).fifoA.count + (loaded continuous 44 0).cfg.analogChunk ≤ (loaded continuous 44 0).cap .A := by
  rw [ok_iff]
  decide
theorem witness_AdcDoneWithoutRoomDrops :
    (loaded continuous 45 0).fault = none ∧ (loaded continuous 45 0).adcEn = true ∧
    (List.replicate 20 (0 : Byte)).length = (loaded continuous 45 0).cfg.analogChunk ∧
    (loaded continuous 45 0).cap .A < (loaded continuous 45 0).fifoA.count + (loaded continuous 45 0).cfg.analogChunk := by
  decide
theorem witness_BadChunkIsRefused :
    State.reset.fault = none ∧ (List.replicate 19 (0 : Byte)).length ≠ State.reset.cfg.analogChunk := by decide
theorem witness_EdgeAppendsItsRecord :
    (loaded triggered 0 35).fault = none ∧ (loaded triggered 0 35).fifoE.Ok ((loaded triggered 0 35).cap .E) ∧
    (loaded triggered 0 35).edgeEn = true ∧ (loaded triggered 0 35).fifoE.count + 5 ≤ (loaded triggered 0 35).cap .E := by
  rw [ok_iff]
  decide
theorem witness_EdgeWithoutRoomDrops :
    (loaded continuous 0 36).fault = none ∧ (loaded continuous 0 36).edgeEn = true ∧
    (loaded continuous 0 36).cap .E < (loaded continuous 0 36).fifoE.count + 5 := by decide
theorem witness_IgnoredEventsChangeNothing :
    State.reset.fault = none ∧ State.reset.adcEn = false ∧
    (List.replicate 20 (0 : Byte)).length = State.reset.cfg.analogChunk ∧ State.reset.edgeEn = false ∧
    State.reset.txBusy = false ∧ decodeCommand (List.replicate 9 0) = none := by decide
theorem witness_IgnoredEventsChangeNothing_txOpp :
    (loaded continuous 19 19).fault = none ∧ (loaded continuous 19 19).txBusy = false ∧
    (loaded continuous 19 19).markerPending = false ∧ (loaded continuous 19 19).fifoE.count < (loaded continuous 19 19).cfg.slice ∧
    (loaded continuous 19 19).fifoA.count < 20 := by decide

/-! ## The commands -/

theorem witness_StartTriggeredArmsTheRun : triggered.fault = none ∧ triggered.cfgMode = .triggered := by decide
theorem witness_StartContinuousStartsTheConverter : continuous.fault = none ∧ continuous.cfgMode = .continuous := by decide
theorem witness_StartWithoutStyleOnlyClears : State.reset.fault = none ∧ State.reset.cfgMode = .none := by decide
theorem witness_StopLeavesTheBuffers : triggered.fault = none := by decide
theorem witness_ResetTrgmodeIntmodeClear : sending.fault = none := by decide
theorem witness_UnrecognizedFrameOnlyRearms :
    continuous.fault = none ∧ decodeCommand [0x48, 0x45, 0x4C, 0x4C, 0x4F, 0x5F, 0x5F, 0x5F, 0x5F] = none := by decide
theorem witness_CmdRxAlwaysRearms : continuous.fault = none := by decide
theorem witness_ModeTransitionTable :
    decodeCommand (List.replicate 9 0) = none ∧
    (State.reset.fault = none ∧ (State.reset.run, State.reset.cfgMode) = (.stopped, .none)) ∧
    (({ State.reset with cfgMode := .continuous } : State).fault = none ∧
      (({ State.reset with cfgMode := .continuous } : State).run,
        ({ State.reset with cfgMode := .continuous } : State).cfgMode) = (.stopped, .continuous)) ∧
    (({ State.reset with cfgMode := .triggered } : State).fault = none ∧
      (({ State.reset with cfgMode := .triggered } : State).run,
        ({ State.reset with cfgMode := .triggered } : State).cfgMode) = (.stopped, .triggered)) ∧
    (continuous.fault = none ∧ (continuous.run, continuous.cfgMode) = (.running, .continuous)) ∧
    (triggered.fault = none ∧ (triggered.run, triggered.cfgMode) = (.running, .triggered)) := by decide
theorem witness_OnlyCommandsWriteTheMode :
    ∃ t, exec (.edge 5 true) triggered = .next t ∧ isCommand (.edge 5 true) = false ∧ Instr.edge 5 true ≠ .rst :=
  ⟨_, rfl, by decide, by decide⟩

/-! ## The encoder -/

theorem witness_EncodePadsWithFill : State.reset.fault = none ∧
    ((0xD0 : Byte) = 0xA0 ∨ (0xD0 : Byte) = 0xB0 ∨ (0xD0 : Byte) = 0xC0 ∨ (0xD0 : Byte) = 0xD0) ∧
    (20 : BitVec 5).toNat ≤ 20 ∧ (List.replicate 20 (0 : Byte)).length = 20 := by decide
theorem witness_EncodeRefusesOtherTypes : State.reset.fault = none ∧
    (0x55 : Byte) ≠ 0xA0 ∧ (0x55 : Byte) ≠ 0xB0 ∧ (0x55 : Byte) ≠ 0xC0 ∧ (0x55 : Byte) ≠ 0xD0 := by decide
theorem witness_EncodeTooLargeFaults : State.reset.fault = none ∧
    ((0xA0 : Byte) = 0xA0 ∨ (0xA0 : Byte) = 0xB0 ∨ (0xA0 : Byte) = 0xC0 ∨ (0xA0 : Byte) = 0xD0) ∧
    20 < (21 : BitVec 5).toNat := by decide
theorem witness_ReceiverReadsWhatWasSent :
    [((1 : Tick), true), (2, false), (3, true), (4, false)].length = Config.ref.slice / 5 ∧
    [((1 : Tick), true)].length = five.cfg.slice / 5 := by decide

/-! ## The sequencer -/

theorem witness_OpportunityWhileBusyIsDeferred : sending.fault = none ∧ sending.txBusy = true := by decide
theorem witness_MarkerGoesFirst :
    triggered.fault = none ∧ triggered.txBusy = false ∧ triggered.markerPending = true := by decide
theorem witness_EdgeSliceGoesNext :
    (loaded continuous 40 20).fault = none ∧ (loaded continuous 40 20).txBusy = false ∧
    (loaded continuous 40 20).markerPending = false ∧
    (loaded continuous 40 20).cfg.slice ≤ (loaded continuous 40 20).fifoE.count := by decide
theorem witness_AnalogSliceGoesThird :
    (loaded continuous 20 19).fault = none ∧ (loaded continuous 20 19).txBusy = false ∧
    (loaded continuous 20 19).markerPending = false ∧
    (loaded continuous 20 19).fifoE.count < (loaded continuous 20 19).cfg.slice ∧
    20 ≤ (loaded continuous 20 19).fifoA.count := by decide
theorem witness_HeartbeatCarriesThePartialSlice_partial :
    (loaded continuous 19 15).fault = none ∧ (loaded continuous 19 15).txBusy = false ∧
    (loaded continuous 19 15).markerPending = false ∧
    (loaded continuous 19 15).fifoE.count < (loaded continuous 19 15).cfg.slice ∧
    (loaded continuous 19 15).fifoA.count < 20 ∧ (loaded continuous 19 15).cfg.busyPayload = .analogPartial := by decide
theorem witness_HeartbeatCarriesThePartialSlice_nothing :
    (loaded bare 19 15).fault = none ∧ (loaded bare 19 15).txBusy = false ∧ (loaded bare 19 15).markerPending = false ∧
    (loaded bare 19 15).fifoE.count < (loaded bare 19 15).cfg.slice ∧ (loaded bare 19 15).fifoA.count < 20 ∧
    (loaded bare 19 15).cfg.busyPayload = .nothing := by decide
theorem witness_EdgePriority :
    (loaded continuous 20 20).fault = none ∧ (loaded continuous 20 20).txBusy = false ∧
    (loaded continuous 20 20).markerPending = false ∧ 20 ≤ (loaded continuous 20 20).fifoE.count ∧
    20 ≤ (loaded continuous 20 20).fifoA.count := by decide
theorem witness_HeartbeatLaw :
    continuous.fault = none ∧ continuous.txBusy = false ∧ continuous.markerPending = false ∧ continuous.fifoA.count = 0 ∧
    continuous.fifoE.count = 0 := by decide
theorem witness_RejectedHandOffIsLost :
    ∃ t, triggered.fault = none ∧ triggered.txBusy = false ∧ exec (.txOpp false true) triggered = .next t ∧
      t.txBusy = true := ⟨_, by decide, by decide, rfl, by decide⟩
theorem witness_TxDoneEndsThePacket :
    (sending.fault = none ∧ sending.txBusy = true) ∧ (continuous.fault = none ∧ continuous.txBusy = false) := by decide
theorem witness_OpportunityNeverFaults : ∃ t, exec (.txOpp true false) (loaded continuous 20 20) = .next t := ⟨_, rfl⟩
theorem witness_OpportunityIgnoresTheMode : ∃ t, exec (.txOpp true true) (loaded State.reset 20 0) = .next t := ⟨_, rfl⟩
theorem witness_PacketInFlightIsHeld :
    ∃ t, exec (.txOpp true true) sending = .next t ∧ sending.txBusy = true ∧ Instr.txOpp true true ≠ .rst ∧
      Instr.txOpp true true ≠ .txDone := ⟨_, rfl, by decide, by decide, by decide⟩
theorem witness_PacketRowsSendTheirPacket_start :
    triggered.fault = none ∧ triggered.txBusy = false ∧ triggered.markerPending = true ∧
    [0x00, 0x01, 0x00, 0x00] ++ List.replicate 16 (0xFF : Byte) =
      le32 triggered.markerTick ++ List.replicate 16 triggered.cfg.fill := by decide
theorem witness_PacketRowsSendTheirPacket_edge :
    (loaded five 20 5).fault = none ∧ (loaded five 20 5).txBusy = false ∧ (loaded five 20 5).markerPending = false ∧
    (loaded five 20 5).cfg.slice ≤ (loaded five 20 5).fifoE.count ∧
    List.replicate 5 0x45 ++ List.replicate 15 (0xFF : Byte) = ((loaded five 20 5).live .E).take (loaded five 20 5).cfg.slice ++
      List.replicate (20 - (loaded five 20 5).cfg.slice) (loaded five 20 5).cfg.fill := by decide
theorem witness_PacketRowsSendTheirPacket_analog :
    (loaded five 20 4).fault = none ∧ (loaded five 20 4).txBusy = false ∧ (loaded five 20 4).markerPending = false ∧
    (loaded five 20 4).fifoE.count < (loaded five 20 4).cfg.slice ∧ 20 ≤ (loaded five 20 4).fifoA.count ∧
    List.replicate 20 (0x41 : Byte) = ((loaded five 20 4).live .A).take 20 := by decide
theorem witness_PacketRowsSendTheirPacket_partial :
    (loaded five 19 4).fault = none ∧ (loaded five 19 4).txBusy = false ∧ (loaded five 19 4).markerPending = false ∧
    (loaded five 19 4).fifoE.count < (loaded five 19 4).cfg.slice ∧ (loaded five 19 4).fifoA.count < 20 ∧
    (loaded five 19 4).cfg.busyPayload = .analogPartial ∧ List.replicate 19 0x41 ++ [(0xFF : Byte)] =
      (loaded five 19 4).live .A ++ List.replicate (20 - (loaded five 19 4).fifoA.count) (loaded five 19 4).cfg.fill := by
  decide
theorem witness_PacketRowsSendTheirPacket_nothing :
    (loaded bare 19 19).fault = none ∧ (loaded bare 19 19).txBusy = false ∧ (loaded bare 19 19).markerPending = false ∧
    (loaded bare 19 19).fifoE.count < (loaded bare 19 19).cfg.slice ∧ (loaded bare 19 19).fifoA.count < 20 ∧
    (loaded bare 19 19).cfg.busyPayload = .nothing ∧
    List.replicate 20 (0xFF : Byte) = List.replicate 20 (loaded bare 19 19).cfg.fill := by decide
theorem witness_PacketNotSentIsRefused :
    ∃ t, State.reset.fault = none ∧
      ((Instr.pktAnalog (List.replicate 20 0), (0xA0 : Byte), false) : Instr × Byte × Bool) ∈
        [(Instr.pktAnalog (List.replicate 20 0), (0xA0 : Byte), false), (.pktEdge (List.replicate 20 0), 0xB0, false),
          (.pktStart (List.replicate 20 0), 0xC0, false), (.pktBusy (List.replicate 20 0), 0xD0, true)] ∧
      exec (.txOpp false true) State.reset = .next t ∧ t.txlog ≠ State.reset.txlog ++ [0xA0 :: List.replicate 20 0] :=
  ⟨_, by decide, by decide, rfl, by decide⟩

/-! ## The whole block -/

theorem ok_full8 : ∀ x, (full8.fifo x).Ok (full8.cap x) := by
  intro x
  rw [ok_iff]
  cases x <;> decide

theorem witness_BytesLeaveOnlyThroughTheNamedWays :
    ∃ t, (∀ x, (full8.fifo x).Ok (full8.cap x)) ∧ exec (.txOpp true true) full8 = .next t ∧
      portOf (.txOpp true true) ≠ .fifo := ⟨_, ok_full8, rfl, by decide⟩

theorem witness_EveryStepKeepsTheFifoInvariant :
    ∃ t, (∀ x, (full8.fifo x).Ok (full8.cap x)) ∧ step full8 = .next t := ⟨_, ok_full8, rfl⟩

theorem inv_sending : sending.Inv where
  fifos x := by rw [ok_iff]; cases x <;> decide
  adcArmed := by decide
  edgeArmed := by decide
  runMode := by decide
  continuousBurst := by decide
  burstRun := by decide
  markerMode := by decide
  rxArmed := rfl
  txPktLen := by decide
  packets p hp := by
    rw [List.mem_singleton.mp hp]
    exact ⟨by decide, 0xA0, _, rfl, rfl⟩
  inFlight _ := by decide
  faultLast _ h := nomatch h

theorem witness_EveryStepKeepsTheInvariant :
    ∃ s t, s = { sending with stim := [⟨.evt, [0x05]⟩] } ∧ s.Inv ∧ step s = .next t :=
  ⟨_, _, rfl, ⟨inv_sending.1, inv_sending.2, inv_sending.3, inv_sending.4, inv_sending.5, inv_sending.6, inv_sending.7,
    inv_sending.8, inv_sending.9, inv_sending.10, inv_sending.11, inv_sending.12⟩, rfl⟩

theorem witness_EndToEndStream :
    State.reset.fault = none ∧ State.reset.txBusy = false ∧ State.reset.cfg.analogChunk = 20 * [true].length ∧
    State.reset.cfg.analogChunk ≤ State.reset.cap .A ∧
    (List.replicate 20 (0 : Byte)).length = State.reset.cfg.analogChunk := by decide

/-! ## Programs -/

theorem witness_ProgramsDecodeToTheirLines_component :
    ∀ i ∈ [Instr.len .A, .encodeReq 0xB0 5 (List.replicate 20 0), .clr .E],
      Instr.wf Config.ref i = true ∧ carries .component i = true := by decide
theorem witness_ProgramsDecodeToTheirLines_block :
    ∀ i ∈ [Instr.rst, .adcDone (List.replicate 20 0), .txOpp true true, .txDone],
      Instr.wf Config.ref i = true ∧ carries .evt i = true := by decide
theorem witness_ProgramsDecodeToTheirLines_lowType : (0x2F : Byte).toNat < 0x30 := by decide

end Sys2Proof.Machine
end

section
/-! SUPPORT. What every transaction but RST keeps: the build, the log entries, a set refusal mark, and the FIFO
invariant, said once for every operation. -/

namespace Sys2Proof.Machine

/-- What a transaction other than RST keeps: the build, the entries of the logs and a set refusal mark (R34, R35), and
the FIFO invariant (R17, R18). -/
structure State.Evolves (s t : State) : Prop where
  cfg : t.cfg = s.cfg
  txlog : s.txlog <+: t.txlog
  caplog : s.caplog <+: t.caplog
  errlog : s.errlog <+: t.errlog
  refused : ∀ r, s.refused = some r → t.refused = some r
  fifos : ∀ x, (s.fifo x).Ok (s.cap x) → (t.fifo x).Ok (t.cap x)

namespace State.Evolves

protected theorem refl (s : State) : s.Evolves s :=
  ⟨rfl, List.prefix_rfl, List.prefix_rfl, List.prefix_rfl, fun _ h => h, fun _ h => h⟩

protected theorem trans {s t u : State} (h : s.Evolves t) (k : t.Evolves u) : s.Evolves u where
  cfg := k.cfg.trans h.cfg
  txlog := h.txlog.trans k.txlog
  caplog := h.caplog.trans k.caplog
  errlog := h.errlog.trans k.errlog
  refused r hr := k.refused r (h.refused r hr)
  fifos x hx := k.fifos x (h.fifos x hx)

/-! ## The shared operations -/

theorem raise (s : State) (e : ErrorEvent) : s.Evolves (s.raise e) :=
  { State.Evolves.refl s with errlog := List.prefix_append _ _ }

theorem emit (s : State) (r : CapRequest) : s.Evolves (s.emit r) :=
  { State.Evolves.refl s with caplog := List.prefix_append _ _ }

theorem refuse (s : State) (r : RefuseReason) : s.Evolves (s.refuse r) :=
  { State.Evolves.refl s with refused := fun first h => by simp [h] }

theorem respond (s : State) (r : Option Response) : s.Evolves (s.respond r) :=
  { State.Evolves.refl s with }

theorem faultWith (s : State) (n : Nat) : s.Evolves (s.faultWith n) :=
  { State.Evolves.raise s (.payloadTooLarge n) with }

theorem setFifo {s : State} {x : Fifo} {f : FifoState} (h : (s.fifo x).Ok (s.cap x) → f.Ok (s.cap x)) :
    s.Evolves (s.setFifo x f) where
  cfg := by simp
  txlog := by simp
  caplog := by simp
  errlog := by simp
  refused r hr := by simpa using hr
  fifos y hy := by
    by_cases hyx : y = x
    · subst hyx
      simpa using h hy
    · simpa [State.fifo_setFifo_of_ne s hyx] using hy

theorem clearFifo (s : State) (x : Fifo) : s.Evolves (s.clearFifo x) :=
  .setFifo fun _ => .empty (s.cap_pos x) _

theorem countDrop (s : State) (x : Fifo) : s.Evolves (s.countDrop x) :=
  .setFifo fun h => { h with }

theorem clearDrop (s : State) (x : Fifo) : s.Evolves (s.clearDrop x) :=
  .setFifo fun h => { h with }

theorem enqueue (s : State) (x : Fifo) (data : List Byte) : s.Evolves (s.enqueue x data).2 := by
  by_cases h : (s.fifo x).count + data.length ≤ s.cap x
  · rw [State.enqueue_of_le h]
    exact .setFifo fun hf => hf.store h
  · rw [State.enqueue_of_gt (by omega)]
    exact .raise s _

theorem dequeue (s : State) (x : Fifo) (n : Nat) : s.Evolves (s.dequeue x n).2 :=
  .setFifo fun h => h.load n

theorem produce (s : State) (x : Fifo) (data : List Byte) : s.Evolves (s.produce x data) := by
  unfold State.produce
  split
  · exact (State.Evolves.enqueue s x data).trans (.countDrop _ x)
  · exact .enqueue s x data

theorem send (s : State) (pkt : Packet) (linkOk : Bool) : s.Evolves (s.send pkt linkOk) := by
  refine (State.Evolves.emit s (.transmitBytes pkt 21)).trans ?_
  cases linkOk with
  | false => exact .raise _ _
  | true => exact { State.Evolves.refl (s.emit _) with txlog := List.prefix_append _ _ }

theorem of_taken {s s1 : State} {payload : List Byte} (h : Taken s payload s1) : s.Evolves s1 := by
  cases h with
  | marker => exact { State.Evolves.refl s with }
  | slice x n => exact .dequeue s x n
  | nothing => exact .refl s

theorem transmitOpportunity (s : State) (b l : Bool) : s.Evolves (s.transmitOpportunity b l) := by
  rcases s.transmitOpportunity_cases b l with ⟨_, h⟩ | ⟨_, _, h⟩ | ⟨_, _, _, _, _, _, htaken, _, h⟩ <;> rw [h]
  · exact .raise s _
  · exact .refl s
  · exact (State.Evolves.of_taken htaken).trans (.send _ _ l)

theorem putOnChannel (s : State) (b : Bool) (pkt : Packet) : s.Evolves (s.putOnChannel b pkt) := by
  rcases s.putOnChannel_cases b pkt with h | h <;> rw [h]
  · exact .transmitOpportunity s b true
  · exact .refuse s _

theorem refuseOn (s : State) (p : Port) (r : RefuseReason) : s.Evolves (s.refuseOn p r) := by
  have hrefuse := State.Evolves.refuse s r
  cases p with
  | evt | receive | transmit => exact hrefuse
  | fifo | encoder | component => exact hrefuse.trans (.respond _ none)

end State.Evolves

/-! ## The producers, the encoder port and the sequencer's notification -/

theorem evolves_adcDoneBody (block : List Byte) (s : State) : s.Evolves (adcDoneBody block s) := by
  unfold adcDoneBody
  split
  · exact .refuse s _
  · split
    · exact .produce s .A block
    · exact .refl s

theorem evolves_startBurst (s : State) : s.Evolves (startBurst s) := by
  unfold startBurst
  split
  · exact { State.Evolves.emit s (.startTimer s.cfg.burstTimerId) with }
  · exact .refl s

theorem evolves_edgeBody (tick : Tick) (pin : Bool) (s : State) : s.Evolves (edgeBody tick pin s) := by
  unfold edgeBody
  split
  · exact (State.Evolves.produce s .E _).trans (evolves_startBurst _)
  · exact .refl s

theorem evolves_txDoneBody (s : State) : s.Evolves (txDoneBody s) := by
  unfold txDoneBody
  split
  · exact { State.Evolves.refl s with }
  · exact .refl s

theorem evolves_encodeBody (ty : Byte) (len : BitVec 5) (payload : List Byte) (s : State) :
    s.Evolves (encodeBody ty len payload s) := by
  unfold encodeBody
  split
  · exact .respond s _
  · exact (State.Evolves.refuse s _).trans (.respond _ _)
  · exact (State.Evolves.faultWith s _).trans (.respond _ _)

/-! ## The commands -/

theorem evolves_clearBuffers (s : State) : s.Evolves (clearBuffers s) :=
  (((State.Evolves.clearFifo s .A).trans (.clearFifo _ .E)).trans (.clearDrop _ .A)).trans (.clearDrop _ .E)

theorem evolves_doStop (s : State) : s.Evolves (doStop s) :=
  { (State.Evolves.emit s .stopAnalogAcquisition).trans (.emit _ (.stopTimer s.cfg.burstTimerId)) with }

/-- RESET keeps the style; TRGMODE and INTMODE are a RESET in a new one (R95, R96, R97). -/
theorem evolves_doReset_cfgMode (s : State) (mode : CfgMode) : s.Evolves (doReset { s with cfgMode := mode }) :=
  { (evolves_doStop s).trans (evolves_clearBuffers _) with }

theorem evolves_doStart (tick : Tick) (s : State) : s.Evolves (doStart tick s) := by
  refine (evolves_clearBuffers s).trans ?_
  unfold doStart
  dsimp only
  split
  · exact { State.Evolves.refl (clearBuffers s) with }
  · exact { State.Evolves.emit (clearBuffers s) .startAnalogAcquisition with }
  · exact { State.Evolves.refl (clearBuffers s) with }

theorem evolves_commandBody (frame : List Byte) (tick : Tick) (s : State) : s.Evolves (commandBody frame tick s) := by
  unfold commandBody
  split
  · exact evolves_doStart tick s
  · exact evolves_doStop s
  · exact evolves_doReset_cfgMode s s.cfgMode
  · exact evolves_doReset_cfgMode s .triggered
  · exact evolves_doReset_cfgMode s .continuous
  · exact .raise s _

theorem evolves_commandStep {body : State → State} (h : ∀ s : State, s.Evolves (body s)) (s : State) :
    s.Evolves (commandStep body s) :=
  have hrx : s.Evolves { s with rxArmed := false } := { State.Evolves.refl s with }
  { (hrx.trans (h _)).trans (.emit _ (.receiveBytes 9)) with }

/-! ## Transactions and steps -/

theorem evolves_bodyOf {i : Instr} (h : i ≠ .rst) (s : State) : s.Evolves (bodyOf i s) := by
  cases i with
  | rst => exact absurd rfl h
  | adcDone block => exact evolves_adcDoneBody block s
  | edge tick pin => exact evolves_edgeBody tick pin s
  | cmdRx frame tick => exact evolves_commandStep (evolves_commandBody frame tick) s
  | txOpp adcBusy linkOk => exact .transmitOpportunity s adcBusy linkOk
  | txDone => exact evolves_txDoneBody s
  | clr x => exact (State.Evolves.clearFifo s x).trans (.respond _ _)
  | enq x data => exact (State.Evolves.enqueue s x data).trans (.respond _ _)
  | deq x n => exact (State.Evolves.dequeue s x n).trans (.respond _ _)
  | empty _ | full _ | len _ => exact .respond s _
  | start tick => exact evolves_commandStep (evolves_doStart tick) s
  | stop _ => exact evolves_commandStep evolves_doStop s
  | reset _ => exact evolves_commandStep (fun s => evolves_doReset_cfgMode s s.cfgMode) s
  | trgmode _ => exact evolves_commandStep (evolves_doReset_cfgMode · .triggered) s
  | intmode _ => exact evolves_commandStep (evolves_doReset_cfgMode · .continuous) s
  | cmdOther frame _ => exact evolves_commandStep (.raise · (.unrecognizedCommand frame)) s
  | pktAnalog _ | pktEdge _ | pktStart _ | pktBusy _ => exact .putOnChannel s _ _
  | encodeReq ty len payload => exact evolves_encodeBody ty len payload s

theorem evolves_of_exec {i : Instr} {s t : State} (h : exec i s = .next t) (hi : i ≠ .rst) : s.Evolves t := by
  rcases exec_cases h with ⟨hrst, _⟩ | ⟨_, _, rfl⟩ | ⟨_, _, rfl⟩
  · exact absurd hrst hi
  · exact .refl _
  · exact evolves_bodyOf hi s

theorem step_evolves_or_powerOn {s t : State} (h : step s = .next t) :
    s.Evolves t ∨ ∃ st, t = ({ s with stim := st } : State).powerOn := by
  have hstim (st : List Segment) : s.Evolves { s with stim := st } := { State.Evolves.refl s with }
  rcases step_cases h with rfl | ⟨i, st, hexec⟩ | ⟨p, r, st, rfl | rfl⟩
  · exact .inl (.refl _)
  · by_cases hi : i = .rst
    · subst hi
      exact .inr ⟨st, (Host.Outcome.next.inj hexec).symm⟩
    · exact .inl ((hstim st).trans (evolves_of_exec hexec hi))
  · exact .inl (hstim st)
  · exact .inl ((hstim st).trans (.refuseOn _ p r))

end Sys2Proof.Machine
end

section
/-! SUPPORT. The flags of a FIFO (R18, R19), the FIFOs that a power-on leaves, and the fields of the STATUS image. -/

namespace Sys2Proof.Machine

/-! ## The flags of a FIFO -/

theorem State.isEmpty_iff_live_eq_nil (s : State) (x : Fifo) : (s.fifo x).isEmpty = true ↔ s.live x = [] := by
  rw [← List.length_eq_zero_iff, State.length_live, FifoState.isEmpty, decide_eq_true_iff]

theorem State.isFull_iff_length_live_eq (s : State) (x : Fifo) :
    (s.fifo x).isFull (s.cap x) = true ↔ (s.live x).length = s.cap x := by
  rw [State.length_live, FifoState.isFull, decide_eq_true_iff]

/-- The two indices meet in an empty FIFO and in a full one (R18). -/
theorem FifoState.Ok.head_eq_tail_iff {cap : Nat} {f : FifoState} (h : f.Ok cap) :
    f.head = f.tail ↔ f.count = 0 ∨ f.count = cap := by
  have htail := h.tailLt
  have hcount := h.countLe
  rw [h.headEq]
  by_cases hwrap : f.tail + f.count < cap
  · rw [Nat.mod_eq_of_lt hwrap]
    omega
  · rw [Nat.mod_eq_sub_mod (by omega), Nat.mod_eq_of_lt (by omega)]
    omega

/-! ## Power-on -/

theorem FifoState.ok_empty {cap : Nat} (h : 0 < cap) : FifoState.empty.Ok cap := .empty h FifoState.empty

theorem State.ok_fifo_powerOn (s : State) (x : Fifo) : (s.powerOn.fifo x).Ok (s.powerOn.cap x) := by
  have hok := FifoState.ok_empty (s.powerOn.cap_pos x)
  cases x <;> exact hok

theorem State.ok_fifo_reset (x : Fifo) : (State.reset.fifo x).Ok (State.reset.cap x) := by
  have hok := FifoState.ok_empty (State.reset.cap_pos x)
  cases x <;> exact hok

/-! ## The STATUS image -/

/-- The STATUS image with its width written as the sum of its fields' widths, so that the rules for `++` apply. -/
theorem State.status_eq_append (s : State) : s.status =
    (0#5 ++ BitVec.ofBool s.fault.isSome ++ BitVec.ofBool s.rxArmed ++ BitVec.ofBool s.txBusy
      ++ BitVec.ofBool s.markerPending ++ burstBits s.burst ++ BitVec.ofBool s.edgeEn ++ BitVec.ofBool s.adcEn
      ++ cfgModeBits s.cfgMode ++ runBits s.run : BitVec (_ + _)) := rfl

theorem State.status_runBits (s : State) : s.status.extractLsb' 0 1 = runBits s.run := by
  rw [State.status_eq_append, BitVec.extractLsb'_append_eq_of_add_le (by decide), BitVec.extractLsb'_eq_self]

theorem State.status_cfgModeBits (s : State) : s.status.extractLsb' 1 2 = cfgModeBits s.cfgMode := by
  rw [State.status_eq_append, BitVec.extractLsb'_append_eq_of_le (by decide),
    BitVec.extractLsb'_append_eq_of_add_le (by decide), BitVec.extractLsb'_eq_self]

theorem State.status_burstBits (s : State) : s.status.extractLsb' 5 2 = burstBits s.burst := by
  rw [State.status_eq_append]
  iterate 4 rw [BitVec.extractLsb'_append_eq_of_le (by decide)]
  rw [BitVec.extractLsb'_append_eq_of_add_le (by decide), BitVec.extractLsb'_eq_self]

theorem State.status_reserved (s : State) : s.status.extractLsb' 11 5 = 0 := by
  rw [State.status_eq_append]
  iterate 9 rw [BitVec.extractLsb'_append_eq_of_le (by decide)]
  exact BitVec.extractLsb'_eq_self

/-- The six fields of one bit. -/
theorem State.status_flags (s : State) :
    s.status.getLsbD 3 = s.adcEn ∧ s.status.getLsbD 4 = s.edgeEn ∧ s.status.getLsbD 7 = s.markerPending ∧
      s.status.getLsbD 8 = s.txBusy ∧ s.status.getLsbD 9 = s.rxArmed ∧ s.status.getLsbD 10 = s.fault.isSome := by
  simp only [State.status_eq_append, BitVec.getLsbD_append]
  simp

end Sys2Proof.Machine
end

section
/-! SUPPORT. The invariant of the block: what every operation keeps of it in a block without a fault, and that RST
and the one fault meet it too. -/

namespace Sys2Proof.Machine

/-! ## The control part of the state -/

/-- The part of the state that the invariant constrains, but for the FIFOs and `errlog`. -/
structure Control where
  run : Run
  cfgMode : CfgMode
  adcEn : Bool
  edgeEn : Bool
  burst : Burst
  markerPending : Bool
  rxArmed : Bool
  txBusy : Bool
  txPkt : Packet
  txlog : List Packet
  fault : Option StickyFault

def State.control (s : State) : Control where
  run := s.run
  cfgMode := s.cfgMode
  adcEn := s.adcEn
  edgeEn := s.edgeEn
  burst := s.burst
  markerPending := s.markerPending
  rxArmed := s.rxArmed
  txBusy := s.txBusy
  txPkt := s.txPkt
  txlog := s.txlog
  fault := s.fault

@[simp] theorem State.control_raise (s : State) (e : ErrorEvent) : (s.raise e).control = s.control := rfl

@[simp] theorem State.control_setFifo (s : State) (x : Fifo) (f : FifoState) :
    (s.setFifo x f).control = s.control := by
  cases x <;> rfl

@[simp] theorem State.control_countDrop (s : State) (x : Fifo) : (s.countDrop x).control = s.control :=
  s.control_setFifo x _

@[simp] theorem State.control_enqueue (s : State) (x : Fifo) (data : List Byte) :
    (s.enqueue x data).2.control = s.control := by
  unfold State.enqueue
  split <;> simp

theorem State.control_produce (s : State) (x : Fifo) (data : List Byte) :
    (s.produce x data).control = s.control := by
  unfold State.produce
  split <;> simp

/-! ## What every operation keeps -/

/-- The invariant in a block without a fault, the only one that takes a transaction but RST (R131). -/
structure State.Healthy (s : State) : Prop extends s.Inv where
  noFault : s.fault = none

namespace State.Healthy

/-- Without a fault, the invariant speaks of the FIFOs and the control part only. -/
theorem of_control {s t : State} (hs : s.Healthy) (hst : s.Evolves t) (hc : t.control = s.control) : t.Healthy := by
  obtain ⟨hrun, hmode, hadc, hedge, hburst, hmarker, hrx, hbusy, hpkt, htxlog, hfault⟩ := Control.mk.inj hc
  have hnone : t.fault = none := hfault.trans hs.noFault
  constructor
  · constructor
    · exact fun x => hst.fifos x (hs.fifos x)
    · rw [hadc, hrun]; exact hs.adcArmed
    · rw [hedge, hrun]; exact hs.edgeArmed
    · rw [hrun, hmode]; exact hs.runMode
    · rw [hmode, hburst]; exact hs.continuousBurst
    · rw [hburst, hrun, hmode]; exact hs.burstRun
    · rw [hmarker, hmode]; exact hs.markerMode
    · rw [hrx]; exact hs.rxArmed
    · rw [hpkt]; exact hs.txPktLen
    · rw [htxlog]; exact hs.packets
    · rw [hbusy, htxlog, hpkt]; exact hs.inFlight
    · simp [hnone]
  · exact hnone

variable {s : State} (hs : s.Healthy)
include hs

theorem raise (e : ErrorEvent) : (s.raise e).Healthy := hs.of_control (.raise s e) rfl

theorem emit (r : CapRequest) : (s.emit r).Healthy := hs.of_control (.emit s r) rfl

theorem refuse (r : RefuseReason) : (s.refuse r).Healthy := hs.of_control (.refuse s r) rfl

theorem respond (r : Option Response) : (s.respond r).Healthy := hs.of_control (.respond s r) rfl

theorem produce (x : Fifo) (data : List Byte) : (s.produce x data).Healthy :=
  hs.of_control (.produce s x data) (s.control_produce x data)

theorem send {pkt : Packet} (hpkt : packetOk pkt) (linkOk : Bool) : (s.send pkt linkOk).Healthy := by
  have hemit := hs.emit (.transmitBytes pkt 21)
  cases linkOk with
  | false => exact hemit.raise _
  | true =>
    exact { hemit with
      txPktLen := hpkt.1
      packets := fun p hp => by
        rcases List.mem_append.mp hp with hp | hp
        · exact hs.packets p hp
        · exact List.mem_singleton.mp hp ▸ hpkt
      inFlight := fun _ => List.getLast?_concat }

theorem of_taken {s1 : State} {payload : List Byte} (h : Taken s payload s1) : s1.Healthy := by
  cases h with
  | marker => exact { hs with markerMode := nofun }
  | slice x n => exact hs.of_control (.dequeue s x n) (s.control_setFifo x _)
  | nothing => exact hs

theorem transmitOpportunity (b l : Bool) : (s.transmitOpportunity b l).Healthy := by
  rcases s.transmitOpportunity_cases b l with ⟨_, h⟩ | ⟨_, _, h⟩ | ⟨_, ty, payload, _, hty, hlen, htaken, _, h⟩ <;>
    rw [h]
  · exact hs.raise _
  · exact hs
  · exact (hs.of_taken htaken).send ⟨length_buildPacket _ _ _ hlen, ty, _, rfl, hty⟩ l

theorem putOnChannel (b : Bool) (pkt : Packet) : (s.putOnChannel b pkt).Healthy := by
  rcases s.putOnChannel_cases b pkt with h | h <;> rw [h]
  · exact hs.transmitOpportunity b true
  · exact hs.refuse _

end State.Healthy

/-! ## The receive path and the encoder's length check -/

/-- The re-armed path is all that the step of a command adds to a body that neither reads nor writes `rx_armed`
(R30, R92). -/
theorem healthy_commandStep {s : State} {body : State → State} (hbody : (body s).Healthy)
    (hrx : body { s with rxArmed := false } = { body s with rxArmed := false }) : (commandStep body s).Healthy := by
  unfold commandStep
  rw [hrx]
  exact { hbody.emit (.receiveBytes 9) with rxArmed := rfl }

theorem doStart_rxArmed (tick : Tick) (s : State) (b : Bool) :
    doStart tick { s with rxArmed := b } = { doStart tick s with rxArmed := b } := by
  have hmode : (clearBuffers { s with rxArmed := b }).cfgMode = s.cfgMode := rfl
  have hmode' : (clearBuffers s).cfgMode = s.cfgMode := rfl
  unfold doStart
  dsimp only
  rw [hmode, hmode']
  cases s.cfgMode <;> rfl

theorem lt_of_encodePacket_eq_tooLarge {c : Config} {ty : Byte} {len n : Nat} {payload : List Byte}
    (h : encodePacket c ty len payload = .tooLarge n) : 20 < len ∧ n = len := by
  unfold encodePacket at h
  split at h
  · split at h
    case isTrue hlen => exact ⟨hlen, (Encoded.tooLarge.inj h).symm⟩
    case isFalse => cases h
  · cases h

section Bodies

variable {s : State} (hs : s.Healthy)
include hs

/-! ## The producers and the sequencer's notification -/

theorem healthy_adcDoneBody (block : List Byte) : (adcDoneBody block s).Healthy := by
  unfold adcDoneBody
  split
  · exact hs.refuse _
  · split
    · exact hs.produce .A block
    · exact hs

/-- An armed burst timer is one of a triggered run, so a running one is too. -/
theorem healthy_startBurst : (startBurst s).Healthy := by
  unfold startBurst
  split
  case isTrue h =>
    obtain ⟨hmode, harmed⟩ := h
    have hrun : s.run = .running := (hs.burstRun (by simp [harmed])).1
    exact { hs.emit (.startTimer s.cfg.burstTimerId) with
      continuousBurst := fun hcont => by simp [hmode] at hcont
      burstRun := fun _ => ⟨hrun, hmode⟩ }
  case isFalse => exact hs

theorem healthy_edgeBody (tick : Tick) (pin : Bool) : (edgeBody tick pin s).Healthy := by
  unfold edgeBody
  split
  · exact healthy_startBurst (hs.produce .E _)
  · exact hs

theorem healthy_txDoneBody : (txDoneBody s).Healthy := by
  unfold txDoneBody
  split
  · exact { hs with inFlight := nofun }
  · exact hs

/-! ## The commands -/

theorem healthy_clearBuffers : (clearBuffers s).Healthy := hs.of_control (evolves_clearBuffers s) rfl

theorem healthy_doStop : (doStop s).Healthy :=
  { (hs.emit .stopAnalogAcquisition).emit (.stopTimer s.cfg.burstTimerId) with
    adcArmed := ⟨nofun, nofun⟩
    edgeArmed := ⟨nofun, nofun⟩
    runMode := nofun
    continuousBurst := fun _ => rfl
    burstRun := fun h => absurd rfl h }

/-- A RESET stops the run and takes the marker back, so the style may change with it (R95, R96, R97). -/
theorem healthy_doReset_cfgMode (mode : CfgMode) : (doReset { s with cfgMode := mode }).Healthy :=
  { healthy_clearBuffers (healthy_doStop hs) with
    runMode := nofun
    continuousBurst := fun _ => rfl
    burstRun := fun h => absurd rfl h
    markerMode := nofun }

theorem healthy_doStart (tick : Tick) : (doStart tick s).Healthy := by
  have hclear := healthy_clearBuffers hs
  unfold doStart
  dsimp only
  split
  case h_1 hmode =>
    exact { hclear with
      adcArmed := by simp
      edgeArmed := by simp
      runMode := fun _ => by simp [hmode]
      continuousBurst := fun hcont => by simp [hmode] at hcont
      burstRun := fun _ => ⟨rfl, hmode⟩
      markerMode := fun _ => hmode }
  case h_2 hmode =>
    have hoff : s.burst = .off := hs.continuousBurst hmode
    exact { hclear.emit .startAnalogAcquisition with
      adcArmed := by simp
      edgeArmed := by simp
      runMode := fun _ => by simp [hmode]
      burstRun := fun h => absurd hoff h
      markerMode := nofun }
  case h_3 => exact { hclear with markerMode := nofun }

theorem healthy_commandStep_doStart (tick : Tick) : (commandStep (doStart tick) s).Healthy :=
  healthy_commandStep (healthy_doStart hs tick) (doStart_rxArmed tick s false)

theorem healthy_commandStep_doStop : (commandStep doStop s).Healthy := healthy_commandStep (healthy_doStop hs) rfl

theorem healthy_commandStep_doReset : (commandStep doReset s).Healthy :=
  healthy_commandStep (healthy_doReset_cfgMode hs s.cfgMode) rfl

theorem healthy_commandStep_doTrgmode : (commandStep doTrgmode s).Healthy :=
  healthy_commandStep (healthy_doReset_cfgMode hs .triggered) rfl

theorem healthy_commandStep_doIntmode : (commandStep doIntmode s).Healthy :=
  healthy_commandStep (healthy_doReset_cfgMode hs .continuous) rfl

theorem healthy_commandStep_raise (e : ErrorEvent) : (commandStep (State.raise · e) s).Healthy :=
  healthy_commandStep (hs.raise e) rfl

theorem healthy_commandStep_commandBody (frame : List Byte) (tick : Tick) :
    (commandStep (commandBody frame tick) s).Healthy := by
  unfold commandBody
  cases decodeCommand frame with
  | none => exact healthy_commandStep_raise hs _
  | some c =>
    cases c with
    | start => exact healthy_commandStep_doStart hs tick
    | stop => exact healthy_commandStep_doStop hs
    | reset => exact healthy_commandStep_doReset hs
    | trgmode => exact healthy_commandStep_doTrgmode hs
    | intmode => exact healthy_commandStep_doIntmode hs

/-! ## Transactions -/

/-- A transaction other than RST and ENCODE raises no fault and keeps the invariant. -/
theorem healthy_bodyOf {i : Instr} (hrst : i ≠ .rst) (henc : ∀ ty len payload, i ≠ .encodeReq ty len payload) :
    (bodyOf i s).Healthy := by
  have hst := evolves_bodyOf hrst s
  cases i with
  | rst => exact absurd rfl hrst
  | adcDone block => exact healthy_adcDoneBody hs block
  | edge tick pin => exact healthy_edgeBody hs tick pin
  | cmdRx frame tick => exact healthy_commandStep_commandBody hs frame tick
  | txOpp adcBusy linkOk => exact hs.transmitOpportunity adcBusy linkOk
  | txDone => exact healthy_txDoneBody hs
  | clr x => exact hs.of_control hst (s.control_setFifo x _)
  | enq x data => exact hs.of_control hst (s.control_enqueue x data)
  | deq x n => exact hs.of_control hst (s.control_setFifo x _)
  | empty _ | full _ | len _ => exact hs.respond _
  | start tick => exact healthy_commandStep_doStart hs tick
  | stop _ => exact healthy_commandStep_doStop hs
  | reset _ => exact healthy_commandStep_doReset hs
  | trgmode _ => exact healthy_commandStep_doTrgmode hs
  | intmode _ => exact healthy_commandStep_doIntmode hs
  | cmdOther _ _ => exact healthy_commandStep_raise hs _
  | pktAnalog _ | pktEdge _ | pktStart _ | pktBusy _ => exact hs.putOnChannel _ _
  | encodeReq ty len payload => exact absurd rfl (henc ty len payload)

/-- ENCODE may fault, of a length of 21 to 31 whose entry is the last of `errlog` (R129, R131). -/
theorem inv_encodeBody (ty : Byte) (len : BitVec 5) (payload : List Byte) : (encodeBody ty len payload s).Inv := by
  unfold encodeBody
  split
  · exact (hs.respond _).toInv
  · exact ((hs.refuse _).respond _).toInv
  case h_3 n henc =>
    obtain ⟨hlen, rfl⟩ := lt_of_encodePacket_eq_tooLarge henc
    refine { hs with faultLast := ?_ }
    intro n hfault
    obtain rfl : len.toNat = n := StickyFault.payloadTooLarge.inj (Option.some.inj hfault)
    exact ⟨hlen, len.isLt, List.getLast?_concat⟩

end Bodies

namespace State.Inv

theorem powerOn (s : State) : s.powerOn.Inv where
  fifos := s.ok_fifo_powerOn
  adcArmed := ⟨nofun, nofun⟩
  edgeArmed := ⟨nofun, nofun⟩
  runMode := nofun
  continuousBurst _ := rfl
  burstRun h := absurd rfl h
  markerMode := nofun
  rxArmed := rfl
  txPktLen := by simp [State.powerOn, freePacket]
  packets := nofun
  inFlight := nofun
  faultLast := nofun

theorem of_exec {i : Instr} {s t : State} (hs : s.Inv) (h : exec i s = .next t) : t.Inv := by
  rcases exec_cases h with ⟨_, rfl⟩ | ⟨_, _, rfl⟩ | ⟨hrst, hfault, rfl⟩
  · exact .powerOn s
  · exact hs
  · have hhealthy : s.Healthy := ⟨hs, hfault⟩
    by_cases henc : ∃ ty len payload, i = .encodeReq ty len payload
    · obtain ⟨ty, len, payload, rfl⟩ := henc
      exact inv_encodeBody hhealthy ty len payload
    · exact (healthy_bodyOf hhealthy hrst fun ty len payload hi => henc ⟨ty, len, payload, hi⟩).toInv

/-- A refusal touches the mark and the answer only, so it keeps the invariant of a faulted block too. -/
theorem refuseOn {s : State} (hs : s.Inv) (p : Port) (r : RefuseReason) : (s.refuseOn p r).Inv := by
  cases p <;> exact { hs with }

end State.Inv

end Sys2Proof.Machine
end

section
/-! PROOFS. The obligations of the state: what every step keeps, and the STATUS image. -/

open Sys2Proof Sys2Proof.Machine

/-- Settles O7: every instruction but RST is offered through `taken`. -/
theorem faultedBlockTakesNoTransaction : Obligations.FaultedBlockTakesNoTransaction := by
  intro i s hfault hi
  rw [exec_of_ne_rst hi, taken_of_faulted hfault]

/-- Settles O57, field by field of the image. -/
theorem statusImageFields : Obligations.StatusImageFields := by
  intro s
  obtain ⟨hadc, hedge, hmarker, hbusy, hrx, hfault⟩ := s.status_flags
  refine ⟨?_, ?_, hadc, hedge, ?_, hmarker, hbusy, hrx, hfault, s.status_reserved⟩
  · rw [s.status_runBits]
    cases s.run <;> rfl
  · rw [s.status_cfgModeBits]
    cases s.cfgMode <;> rfl
  · rw [s.status_burstBits]
    cases s.burst <;> rfl

/-- Settles O9: every transaction but RST evolves the state. -/
theorem observationOnlyGrows : Obligations.ObservationOnlyGrows := by
  intro i s t h hi
  have hst := evolves_of_exec h hi
  exact ⟨hst.txlog, hst.caplog, hst.errlog, hst.refused⟩

/-- Settles O10: a step evolves the state or is a power-on reset, which keeps the build. -/
theorem noStepChangesTheBuild : Obligations.NoStepChangesTheBuild := by
  intro s t h
  rcases step_evolves_or_powerOn h with hst | ⟨_, rfl⟩
  · exact hst.cfg
  · rfl

/-- Settles O54: a step evolves the state or leaves both FIFOs empty; the flags follow from the invariant. -/
theorem everyStepKeepsTheFifoInvariant : Obligations.EveryStepKeepsTheFifoInvariant := by
  refine ⟨State.ok_fifo_reset, fun s t hs h x => ?_⟩
  have hok : (t.fifo x).Ok (t.cap x) := by
    rcases step_evolves_or_powerOn h with hst | ⟨_, rfl⟩
    · exact hst.fifos x (hs x)
    · exact State.ok_fifo_powerOn _ x
  exact ⟨hok, t.isEmpty_iff_live_eq_nil x, t.isFull_iff_length_live_eq x, hok.head_eq_tail_iff⟩

/-- Settles O55: loading the stimulus touches nothing of the invariant, and what is delivered keeps it. -/
theorem everyStepKeepsTheInvariant : Obligations.EveryStepKeepsTheInvariant := by
  intro s t hs h
  have hstim (st : List Segment) : State.Inv { s with stim := st } := { hs with }
  rcases step_cases h with rfl | ⟨i, st, hexec⟩ | ⟨p, r, st, rfl | rfl⟩
  · exact hs
  · exact (hstim st).of_exec hexec
  · exact hstim st
  · exact (hstim st).refuseOn p r

end

section
/-! SUPPORT. The bytes a FIFO holds after each operation and each transaction outside the FIFO port. -/

namespace Sys2Proof.Machine

/-! ## The shared operations -/

theorem State.live_congr {s t : State} {x : Fifo} (hcap : t.cap x = s.cap x) (hfifo : t.fifo x = s.fifo x) :
    t.live x = s.live x := by
  rw [State.live, hcap, hfifo, State.live]

theorem State.live_eq_nil_of_count {s : State} {x : Fifo} (h : (s.fifo x).count = 0) : s.live x = [] := by
  rw [← List.length_eq_zero_iff, State.length_live, h]

@[simp] theorem State.raise_live (s : State) (e : ErrorEvent) (x : Fifo) : (s.raise e).live x = s.live x :=
  State.live_congr rfl (State.raise_fifo s e x)

@[simp] theorem State.emit_live (s : State) (r : CapRequest) (x : Fifo) : (s.emit r).live x = s.live x :=
  State.live_congr rfl (State.emit_fifo s r x)

@[simp] theorem State.refuse_live (s : State) (r : RefuseReason) (x : Fifo) : (s.refuse r).live x = s.live x :=
  State.live_congr rfl (State.refuse_fifo s r x)

@[simp] theorem State.respond_live (s : State) (r : Option Response) (x : Fifo) : (s.respond r).live x = s.live x :=
  State.live_congr rfl (State.respond_fifo s r x)

@[simp] theorem State.faultWith_live (s : State) (n : Nat) (x : Fifo) : (s.faultWith n).live x = s.live x :=
  State.live_congr rfl (State.faultWith_fifo s n x)

theorem State.setFifo_live_of_ne (s : State) {x y : Fifo} (h : y ≠ x) (f : FifoState) :
    (s.setFifo x f).live y = s.live y :=
  State.live_congr (State.setFifo_cap s x y f) (State.fifo_setFifo_of_ne s h f)

/-- The drop counter is no part of the bytes held (R20). -/
@[simp] theorem State.countDrop_live (s : State) (x y : Fifo) : (s.countDrop x).live y = s.live y := by
  by_cases h : y = x
  · subst h
    simp [State.live, State.countDrop]
  · exact s.setFifo_live_of_ne h _

@[simp] theorem State.send_live (s : State) (pkt : Packet) (linkOk : Bool) (x : Fifo) :
    (s.send pkt linkOk).live x = s.live x := by
  cases linkOk <;> rfl

@[simp] theorem State.send_caplog (s : State) (pkt : Packet) (linkOk : Bool) :
    (s.send pkt linkOk).caplog = s.caplog ++ [.transmitBytes pkt 21] := by
  cases linkOk <;> rfl

/-! ## The producers and the encoder port -/

/-- An accepted ENQ appends its data (R73, R80). -/
theorem State.enqueue_live {s : State} {x : Fifo} (hok : (s.fifo x).Ok (s.cap x)) {data : List Byte}
    (h : (s.fifo x).count + data.length ≤ s.cap x) : (s.enqueue x data).2.live x = s.live x ++ data := by
  rw [State.enqueue_of_le h]
  simpa [State.live] using loadBytes_store hok h

theorem State.produce_live_of_ne (s : State) {x y : Fifo} (h : y ≠ x) {data : List Byte} (hdata : data ≠ []) :
    (s.produce x data).live y = s.live y := by
  rcases s.produce_cases x hdata with ⟨hroom, hprod⟩ | ⟨_, hprod⟩ <;> rw [hprod]
  · rw [State.enqueue_of_le hroom]
    exact s.setFifo_live_of_ne h _
  · simp

/-- A producer's data is appended whole or not at all (R83, R85). -/
theorem State.produce_live {s : State} {x : Fifo} (hok : (s.fifo x).Ok (s.cap x)) {data : List Byte}
    (hdata : data ≠ []) : (s.produce x data).live x = s.live x ∨ (s.produce x data).live x = s.live x ++ data := by
  rcases s.produce_cases x hdata with ⟨hroom, hprod⟩ | ⟨_, hprod⟩ <;> rw [hprod]
  · exact .inr (State.enqueue_live hok hroom)
  · left
    simp

theorem adcDoneBody_live {s : State} (hok : (s.fifo .A).Ok (s.cap .A)) (block : List Byte) (x : Fifo) :
    (adcDoneBody block s).live x = s.live x ∨ (x = .A ∧ (adcDoneBody block s).live x = s.live x ++ block) := by
  unfold adcDoneBody
  split
  next => exact .inl (by simp)
  next hlen =>
    have hblock : block ≠ [] := by
      rintro rfl
      simp [Config.analogChunk] at hlen
    split
    · cases x with
      | A => exact (State.produce_live hok hblock).imp_right fun h => ⟨rfl, h⟩
      | E => exact .inl (s.produce_live_of_ne (by decide) hblock)
    · exact .inl rfl

@[simp] theorem startBurst_live (s : State) (x : Fifo) : (startBurst s).live x = s.live x := by
  unfold startBurst
  split <;> rfl

theorem edgeBody_live {s : State} (hok : (s.fifo .E).Ok (s.cap .E)) (tick : Tick) (pin : Bool) (x : Fifo) :
    (edgeBody tick pin s).live x = s.live x ∨
      (x = .E ∧ (edgeBody tick pin s).live x = s.live x ++ edgeRecord tick pin) := by
  have hrecord : edgeRecord tick pin ≠ [] := by simp [edgeRecord]
  unfold edgeBody
  split
  · rw [startBurst_live]
    cases x with
    | A => exact .inl (s.produce_live_of_ne (by decide) hrecord)
    | E => exact (State.produce_live hok hrecord).imp_right fun h => ⟨rfl, h⟩
  · exact .inl rfl

theorem encodeBody_live (ty : Byte) (len : BitVec 5) (payload : List Byte) (s : State) (x : Fifo) :
    (encodeBody ty len payload s).live x = s.live x := by
  unfold encodeBody
  split <;> simp

/-! ## The commands -/

theorem clearBuffers_live (s : State) (x : Fifo) : (clearBuffers s).live x = [] :=
  State.live_eq_nil_of_count (by cases x <;> rfl)

theorem doStop_live (s : State) (x : Fifo) : (doStop s).live x = s.live x := rfl

theorem doReset_live (s : State) (x : Fifo) : (doReset s).live x = [] := clearBuffers_live (doStop s) x

theorem doStart_live (tick : Tick) (s : State) (x : Fifo) : (doStart tick s).live x = [] := by
  refine Eq.trans ?_ (clearBuffers_live s x)
  unfold doStart
  dsimp only
  split <;> rfl

theorem commandStep_live (body : State → State) (s : State) (x : Fifo) :
    (commandStep body s).live x = (body { s with rxArmed := false }).live x := rfl

theorem commandBody_live (frame : List Byte) (tick : Tick) (s : State) (x : Fifo) :
    (commandBody frame tick s).live x = s.live x ∨ (commandBody frame tick s).live x = [] := by
  unfold commandBody
  split
  · exact .inr (doStart_live tick s x)
  · exact .inl (doStop_live s x)
  · exact .inr (doReset_live s x)
  · exact .inr (doReset_live _ x)
  · exact .inr (doReset_live _ x)
  · exact .inl (State.raise_live s _ x)

theorem live_of_isCommand {i : Instr} (h : isCommand i = true) (s : State) (x : Fifo) :
    (bodyOf i s).live x = s.live x ∨ (bodyOf i s).live x = [] := by
  cases i with
  | cmdRx frame tick => exact commandBody_live frame tick { s with rxArmed := false } x
  | start tick => exact .inr (doStart_live tick _ x)
  | stop _ | cmdOther _ _ => exact .inl rfl
  | reset _ | trgmode _ | intmode _ => exact .inr (doReset_live _ x)
  | _ => cases h

/-! ## The transmit sequencer -/

/-- The bytes of FIFO `x` from `s` to `t`: they stay, or their first ones go out in a packet (R74, R118). -/
def State.KeepsOrSends (s t : State) (x : Fifo) : Prop :=
  t.live x = s.live x ∨
    ∃ ty k pad, t.caplog = s.caplog ++ [.transmitBytes (ty :: ((s.live x).take k ++ pad)) 21] ∧
      t.live x = (s.live x).drop k

theorem Taken.caplog {s s1 : State} {payload : List Byte} (h : Taken s payload s1) : s1.caplog = s.caplog := by
  cases h with
  | marker | nothing => rfl
  | slice y n => exact State.setFifo_caplog s y _

/-- A packet's source loses exactly the bytes of its payload, and only from its front. -/
theorem Taken.live {s s1 : State} {payload : List Byte} (h : Taken s payload s1) (x : Fifo) :
    s1.live x = s.live x ∨ ∃ k, payload = (s.live x).take k ∧ s1.live x = (s.live x).drop k := by
  cases h with
  | marker | nothing => exact .inl rfl
  | slice y n =>
    by_cases hxy : x = y
    · subst hxy
      exact .inr ⟨n, rfl, s.dequeue_live x n⟩
    · exact .inl (s.setFifo_live_of_ne hxy _)

theorem transmitOpportunity_keepsOrSends (s : State) (b l : Bool) (x : Fifo) :
    s.KeepsOrSends (s.transmitOpportunity b l) x := by
  rcases s.transmitOpportunity_cases b l with ⟨_, h⟩ | ⟨_, _, h⟩ | ⟨_, ty, payload, s1, _, _, htaken, _, h⟩ <;> rw [h]
  · exact .inl (State.raise_live s _ x)
  · exact .inl rfl
  · rcases htaken.live x with hlive | ⟨k, rfl, hlive⟩
    · exact .inl (by rw [State.send_live, hlive])
    · exact .inr ⟨ty, k, _, by rw [State.send_caplog, htaken.caplog]; rfl, by rw [State.send_live, hlive]⟩

theorem putOnChannel_keepsOrSends (s : State) (b : Bool) (pkt : Packet) (x : Fifo) :
    s.KeepsOrSends (s.putOnChannel b pkt) x := by
  rcases s.putOnChannel_cases b pkt with h | h <;> rw [h]
  · exact transmitOpportunity_keepsOrSends s b true x
  · exact .inl (State.refuse_live s _ x)

theorem txDoneBody_live (s : State) (x : Fifo) : (txDoneBody s).live x = s.live x := by
  unfold txDoneBody
  split <;> rfl

end Sys2Proof.Machine
end

section
/-! SUPPORT. The step of a decoded transaction. -/

namespace Sys2Proof.Machine

/-- No transaction is empty. -/
theorem decode_nil (c : Config) (p : Port) : decode c p [] = .short := by
  cases p <;> rfl

theorem restOf_eq_ite (p : Port) (rest : List Byte) (segs : List Segment) :
    restOf p rest segs = if rest = [] then segs else ⟨p, rest⟩ :: segs := by
  cases rest <;> rfl

/-- What is delivered when the front of the stimulus decodes to an instruction. -/
theorem State.fetch_of_ok {s : State} {p : Port} {bs rest : List Byte} {segs : List Segment} {i : Instr}
    (hs : s.stim = ⟨p, bs⟩ :: segs) (hd : decode s.cfg p bs = .ok i rest) :
    s.fetch = .instr i (restOf p rest segs) := by
  cases bs with
  | nil => rw [decode_nil] at hd; cases hd
  | cons b bs => simp only [State.fetch, hs, skipEmpty, hd]

end Sys2Proof.Machine
end

section
/-! PROOFS. The obligations of the memory: how the bytes of a FIFO change, and the instruction a step runs. -/

open Sys2Proof Sys2Proof.Machine

/-- Settles O53, by the kinds of transaction: producers append, commands clear or keep, the sequencer takes from the
front what it sends, and nothing else outside the FIFO port touches the bytes held. -/
theorem bytesLeaveOnlyThroughTheNamedWays : Obligations.BytesLeaveOnlyThroughTheNamedWays := by
  intro i x s t hok h hport
  rcases exec_cases h with ⟨rfl, rfl⟩ | ⟨_, _, rfl⟩ | ⟨hrst, _, rfl⟩
  · exact .inr (.inr (.inr (.inl ⟨.inr rfl, State.live_eq_nil_of_count (by cases x <;> rfl)⟩)))
  · exact .inl rfl
  by_cases hcmd : isCommand i = true
  · rcases live_of_isCommand hcmd s x with hlive | hlive
    · exact .inl hlive
    · exact .inr (.inr (.inr (.inl ⟨.inl hcmd, hlive⟩)))
  cases i with
  | adcDone block =>
    exact (adcDoneBody_live (hok .A) block x).imp_right fun ⟨hx, hlive⟩ => .inl ⟨block, hx, rfl, hlive⟩
  | edge tick pin =>
    exact (edgeBody_live (hok .E) tick pin x).imp_right fun ⟨hx, hlive⟩ => .inr (.inl ⟨tick, pin, hx, rfl, hlive⟩)
  | txOpp adcBusy linkOk =>
    exact (transmitOpportunity_keepsOrSends s adcBusy linkOk x).imp_right fun hsent => .inr (.inr (.inr hsent))
  | pktAnalog _ | pktEdge _ | pktStart _ | pktBusy _ =>
    exact (putOnChannel_keepsOrSends s _ _ x).imp_right fun hsent => .inr (.inr (.inr hsent))
  | txDone => exact .inl (txDoneBody_live s x)
  | encodeReq ty len payload => exact .inl (encodeBody_live ty len payload s x)
  | rst => exact absurd rfl hrst
  | clr _ | enq _ _ | deq _ _ | empty _ | full _ | len _ => exact absurd rfl hport
  | cmdRx _ _ | start _ | stop _ | reset _ | trgmode _ | intmode _ | cmdOther _ _ => exact absurd rfl hcmd

/-- Settles O5: the decoded instruction is what the front of the stimulus delivers. -/
theorem stepRunsTheDecodedInstruction : Obligations.StepRunsTheDecodedInstruction := by
  intro s p bs rest segs i hs hd _
  rw [step, State.fetch_of_ok hs hd, restOf_eq_ite]

end

section
/-! SUPPORT. The operand decoders, each said once: what they read, and what they are the reading of. -/

namespace Sys2Proof

/-! ## The block port -/

theorem decodeFrameTick_eq_ok_iff {f : List Byte → Tick → Instr} {bs rest : List Byte} {i : Instr} :
    decodeFrameTick f bs = .ok i rest ↔
      ∃ frame tick, frame.length = 9 ∧ i = f frame tick ∧ bs = frame ++ le32 tick ++ rest := by
  constructor
  · intro h
    unfold decodeFrameTick at h
    split at h
    · cases h
      exact ⟨_, _, rfl, rfl, by simp [le32_ofLe32]⟩
    · cases h
  · rintro ⟨frame, tick, hframe, rfl, rfl⟩
    match frame, hframe with
    | [f0, f1, f2, f3, f4, f5, f6, f7, f8], _ => simp [decodeFrameTick, le32, ofLe32_le32]

theorem decodeAdcDone_eq_ok_iff {c : Config} {bs rest : List Byte} {i : Instr} :
    decodeAdcDone c bs = .ok i rest ↔
      ∃ block, block.length = c.analogChunk ∧ i = .adcDone block ∧ bs = block ++ rest := by
  unfold decodeAdcDone
  constructor
  · intro h
    split at h
    case isTrue => cases h
    case isFalse hlen =>
      cases h
      exact ⟨_, List.length_take_of_le (by omega), rfl, (List.take_append_drop _ _).symm⟩
  · rintro ⟨block, hblock, rfl, rfl⟩
    simp [← hblock]

theorem decodeEdge_eq_ok_iff {bs rest : List Byte} {i : Instr} :
    decodeEdge bs = .ok i rest ↔ ∃ tick pin, i = .edge tick pin ∧ bs = le32 tick ++ [bitByte pin] ++ rest := by
  constructor
  · intro h
    unfold decodeEdge at h
    split at h
    · split_ifs at h with hlow hhigh
      · cases h
        exact ⟨_, false, rfl, by simp [le32_ofLe32, bitByte, hlow]⟩
      · cases h
        exact ⟨_, true, rfl, by simp [le32_ofLe32, bitByte, hhigh]⟩
    · cases h
  · rintro ⟨tick, pin, rfl, rfl⟩
    cases pin <;> simp [decodeEdge, le32, ofLe32_le32, bitByte]

/-- A byte whose six high bits are 0 is TX_OPP's operand byte of its two low bits (R55). -/
theorem txOppByte_getLsbD {o : Byte} (h : o.extractLsb' 2 6 = 0) : txOppByte (o.getLsbD 0) (o.getLsbD 1) = o := by
  revert o
  decide

theorem decodeTxOpp_eq_ok_iff {bs rest : List Byte} {i : Instr} :
    decodeTxOpp bs = .ok i rest ↔ ∃ b l, i = .txOpp b l ∧ bs = txOppByte b l :: rest := by
  constructor
  · intro h
    unfold decodeTxOpp at h
    split at h
    · split at h
      case isTrue ho =>
        cases h
        exact ⟨_, _, rfl, by rw [txOppByte_getLsbD ho]⟩
      case isFalse => cases h
    · cases h
  · rintro ⟨b, l, rfl, rfl⟩
    cases b <;> cases l <;> rfl

/-! ## The FIFO port -/

/-- A code byte is its FIFO's bit and its operation's bits (R56). -/
theorem fifoBit_or_of_extractLsb' {code : Byte} {op : BitVec 7} (h : code.extractLsb' 0 7 = op) :
    fifoBit (fifoOfCode code) ||| op.setWidth 8 = code := by
  subst h
  revert code
  decide

/-- The carrier at the front of a byte string holds the count read from it (log 11). -/
theorem leBytes_ofLeBytes_take {k : Nat} {bs : List Byte} (h : k ≤ bs.length) :
    leBytes k (ofLeBytes (bs.take k)) = bs.take k := by
  simpa [Nat.min_eq_left h] using leBytes_ofLeBytes (bs.take k)

theorem decodeEnq_eq_ok_iff {c : Config} {x : Fifo} {bs rest : List Byte} {i : Instr} :
    decodeEnq c x bs = .ok i rest ↔
      ∃ data, data.length < 2 ^ c.lenW ∧ i = .enq x data ∧
        bs = leBytes (countBytes c) data.length ++ data ++ rest := by
  unfold decodeEnq
  constructor
  · intro h
    split_ifs at h with hcarrier hcount hshort
    cases h
    have hlen : ((bs.drop (countBytes c)).take (ofLeBytes (bs.take (countBytes c)))).length =
        ofLeBytes (bs.take (countBytes c)) := List.length_take_of_le (by omega)
    refine ⟨_, by rwa [hlen], rfl, ?_⟩
    rw [hlen, leBytes_ofLeBytes_take (by omega), List.append_assoc, List.take_append_drop, List.take_append_drop]
  · rintro ⟨data, hdata, rfl, rfl⟩
    have hlen : (leBytes (countBytes c) data.length).length = countBytes c := Laws.Sizes.length_leBytes _ _
    simp [List.append_assoc, hlen, ofLeBytes_leBytes _ _ (count_lt_carrier c hdata), hdata]

theorem decodeDeq_eq_ok_iff {c : Config} {x : Fifo} {bs rest : List Byte} {i : Instr} :
    decodeDeq c x bs = .ok i rest ↔
      ∃ n, n < 2 ^ c.lenW ∧ i = .deq x n ∧ bs = leBytes (countBytes c) n ++ rest := by
  unfold decodeDeq
  constructor
  · intro h
    split_ifs at h with hcarrier hcount
    cases h
    exact ⟨_, hcount, rfl, by rw [leBytes_ofLeBytes_take (by omega), List.take_append_drop]⟩
  · rintro ⟨n, hn, rfl, rfl⟩
    have hlen : (leBytes (countBytes c) n).length = countBytes c := Laws.Sizes.length_leBytes _ _
    simp [hlen, ofLeBytes_leBytes _ _ (count_lt_carrier c hn), hn]

/-! ## The encoder port -/

theorem extractLsb'_encHeader (ty : Byte) (len : BitVec 5) :
    (0x0#3 ++ ty ++ len).extractLsb' 13 3 = 0 ∧ (0x0#3 ++ ty ++ len).extractLsb' 5 8 = ty ∧
      (0x0#3 ++ ty ++ len).extractLsb' 0 5 = len := by
  refine ⟨?_, ?_, ?_⟩
  · rw [BitVec.extractLsb'_append_eq_of_le (by decide)]
    exact BitVec.extractLsb'_append_eq_left
  · rw [BitVec.extractLsb'_append_eq_of_le (by decide)]
    exact BitVec.extractLsb'_append_eq_right
  · exact BitVec.extractLsb'_append_eq_right

/-- Two bytes whose three high bits are 0 are the header of the fields read from them (R57; log 12). -/
theorem encHeader_extractLsb' {h1 h0 : Byte} (h : (h1 ++ h0).extractLsb' 13 3 = 0) :
    encHeader ((h1 ++ h0).extractLsb' 5 8) ((h1 ++ h0).extractLsb' 0 5) = [h1, h0] := by
  have hw : (0x0#3 ++ (h1 ++ h0).extractLsb' 5 8 ++ (h1 ++ h0).extractLsb' 0 5 : BitVec (8 + 8)) = h1 ++ h0 := by
    rw [← show (h1 ++ h0).extractLsb' 13 3 = 0x0#3 from h,
      BitVec.extractLsb'_append_extractLsb'_eq_extractLsb' (show 13 = 5 + 8 from rfl),
      BitVec.extractLsb'_append_extractLsb'_eq_extractLsb' (show 5 = 0 + 5 from rfl), BitVec.extractLsb'_eq_self]
  rw [encHeader, hw, BitVec.extractLsb'_append_eq_left, BitVec.extractLsb'_append_eq_right]

theorem decodeEncoder_eq_ok_iff_exists {bs rest : List Byte} {i : Instr} :
    decodeEncoder bs = .ok i rest ↔
      ∃ ty len payload, payload.length = 20 ∧ i = .encodeReq ty len payload ∧
        bs = encHeader ty len ++ payload ++ rest := by
  constructor
  · intro h
    unfold decodeEncoder at h
    split at h
    case h_1 =>
      split_ifs at h with hlen hheader
      cases h
      exact ⟨_, _, _, List.length_take_of_le (by omega), rfl, by simp [encHeader_extractLsb' hheader]⟩
    case h_2 => cases h
  · rintro ⟨ty, len, payload, hlen, rfl, rfl⟩
    obtain ⟨hzero, hty, hlow⟩ := extractLsb'_encHeader ty len
    simp only [encHeader, decodeEncoder, List.cons_append, List.nil_append, encHeader_append, hzero, hty, hlow]
    simp [List.take_left' hlen, List.drop_left' hlen, hlen]

end Sys2Proof
end

section
/-! SUPPORT. Each port's decoder reads exactly the encodings of the well-formed instructions of the port. -/

namespace Sys2Proof

/-! ## The block port and the FIFO port -/

theorem decodeEvt_eq_ok_iff {c : Config} {bs rest : List Byte} {i : Instr} :
    decodeEvt c bs = .ok i rest ↔ i.wf c = true ∧ portOf i = .evt ∧ encode c i ++ rest = bs := by
  constructor
  · intro h
    unfold decodeEvt at h
    split at h
    · cases h
    · split_ifs at h with hcode hcode hcode hcode hcode hcode <;> subst hcode
      · cases h
        exact ⟨rfl, rfl, rfl⟩
      · obtain ⟨block, hblock, rfl, rfl⟩ := decodeAdcDone_eq_ok_iff.mp h
        exact ⟨decide_eq_true hblock, rfl, rfl⟩
      · obtain ⟨tick, pin, rfl, rfl⟩ := decodeEdge_eq_ok_iff.mp h
        exact ⟨rfl, rfl, rfl⟩
      · obtain ⟨frame, tick, hframe, rfl, rfl⟩ := decodeFrameTick_eq_ok_iff.mp h
        exact ⟨decide_eq_true hframe, rfl, rfl⟩
      · obtain ⟨b, l, rfl, rfl⟩ := decodeTxOpp_eq_ok_iff.mp h
        exact ⟨rfl, rfl, rfl⟩
      · cases h
        exact ⟨rfl, rfl, rfl⟩
  · rintro ⟨hwf, hport, rfl⟩
    cases i with
    | rst | txDone => rfl
    | adcDone block => exact decodeAdcDone_eq_ok_iff.mpr ⟨block, of_decide_eq_true hwf, rfl, rfl⟩
    | edge tick pin => exact decodeEdge_eq_ok_iff.mpr ⟨tick, pin, rfl, rfl⟩
    | cmdRx frame tick => exact decodeFrameTick_eq_ok_iff.mpr ⟨frame, tick, of_decide_eq_true hwf, rfl, rfl⟩
    | txOpp b l => exact decodeTxOpp_eq_ok_iff.mpr ⟨b, l, rfl, rfl⟩
    | _ => cases hport

theorem decodeFifo_eq_ok_iff {c : Config} {bs rest : List Byte} {i : Instr} :
    decodeFifo c bs = .ok i rest ↔ i.wf c = true ∧ portOf i = .fifo ∧ encode c i ++ rest = bs := by
  constructor
  · intro h
    unfold decodeFifo at h
    split at h
    · cases h
    · split_ifs at h with hcode hcode hcode hcode hcode hcode <;> replace hcode := fifoBit_or_of_extractLsb' hcode
      · cases h
        exact ⟨rfl, rfl, congrArg (· :: _) hcode⟩
      · obtain ⟨data, hdata, rfl, rfl⟩ := decodeEnq_eq_ok_iff.mp h
        exact ⟨decide_eq_true hdata, rfl, congrArg (· :: _) hcode⟩
      · obtain ⟨n, hn, rfl, rfl⟩ := decodeDeq_eq_ok_iff.mp h
        exact ⟨decide_eq_true hn, rfl, congrArg (· :: _) hcode⟩
      all_goals
        cases h
        exact ⟨rfl, rfl, congrArg (· :: _) hcode⟩
  · rintro ⟨hwf, hport, rfl⟩
    cases i with
    | clr x | empty x | full x | len x => cases x <;> rfl
    | enq x data => cases x <;> exact decodeEnq_eq_ok_iff.mpr ⟨data, of_decide_eq_true hwf, rfl, rfl⟩
    | deq x n => cases x <;> exact decodeDeq_eq_ok_iff.mpr ⟨n, of_decide_eq_true hwf, rfl, rfl⟩
    | _ => cases hport

/-! ## The encoder port and a component program's port -/

theorem decodeEncoder_eq_ok_iff {c : Config} {bs rest : List Byte} {i : Instr} :
    decodeEncoder bs = .ok i rest ↔ i.wf c = true ∧ portOf i = .encoder ∧ encode c i ++ rest = bs := by
  rw [decodeEncoder_eq_ok_iff_exists]
  constructor
  · rintro ⟨ty, len, payload, hlen, rfl, rfl⟩
    exact ⟨decide_eq_true hlen, rfl, rfl⟩
  · rintro ⟨hwf, hport, rfl⟩
    cases i with
    | encodeReq ty len payload => exact ⟨ty, len, payload, of_decide_eq_true hwf, rfl, rfl⟩
    | _ => cases hport

theorem carries_component_iff {i : Instr} :
    carries .component i = true ↔
      portOf i = .fifo ∨ ∃ ty len payload, i = .encodeReq ty len payload ∧ 0x30 ≤ ty.toNat := by
  cases i <;> simp [carries, portOf]

/-- No line of the FIFO port begins with a header byte of a component program (R56; log 20). -/
theorem encode_of_portOf_fifo (c : Config) {i : Instr} (h : portOf i = .fifo) :
    ∃ b ops, encode c i = b :: ops ∧ ¬ (0x06 ≤ b.toNat ∧ b.toNat < 0x20) := by
  cases i with
  | clr x | enq x _ | deq x _ | empty x | full x | len x => exact ⟨_, _, rfl, by cases x <;> decide⟩
  | _ => cases h

theorem decode_component_eq_ok_iff {c : Config} {bs rest : List Byte} {i : Instr} :
    decode c .component bs = .ok i rest ↔
      i.wf c = true ∧ carries .component i = true ∧ encode c i ++ rest = bs := by
  rw [carries_component_iff]
  constructor
  · intro h
    cases bs with
    | nil => cases h
    | cons b ops =>
      by_cases hb : 0x06 ≤ b.toNat ∧ b.toNat < 0x20
      · rw [decode_component_of_header c hb] at h
        obtain ⟨ty, len, payload, hlen, rfl, hbs⟩ := decodeEncoder_eq_ok_iff_exists.mp h
        refine ⟨decide_eq_true hlen, .inr ⟨ty, len, payload, rfl, ?_⟩, hbs.symm⟩
        obtain ⟨rfl, -⟩ := List.cons.inj hbs
        rw [toNat_encHeader_first] at hb
        omega
      · rw [decode_component_of_code c hb] at h
        obtain ⟨hwf, hport, hbs⟩ := (decodeFifo_eq_ok_iff (bs := b :: ops)).mp h
        exact ⟨hwf, .inl hport, hbs⟩
  · rintro ⟨hwf, hport | ⟨ty, len, payload, rfl, hty⟩, rfl⟩
    · obtain ⟨b, ops, hbs, hb⟩ := encode_of_portOf_fifo c hport
      rw [hbs, List.cons_append, decode_component_of_code c hb, ← List.cons_append, ← hbs]
      exact decodeFifo_eq_ok_iff.mpr ⟨hwf, hport, rfl⟩
    · have hb : 0x06 ≤ ty.toNat / 8 ∧ ty.toNat / 8 < 0x20 := by omega
      rw [← toNat_encHeader_first ty len] at hb
      exact (decode_component_of_header c hb _).trans
        (decodeEncoder_eq_ok_iff_exists.mpr ⟨ty, len, payload, of_decide_eq_true hwf, rfl, rfl⟩)

/-! ## The receive channel and the transmit channel -/

/-- The token of a command (R62). -/
def Command.token : Command → List Byte
  | .start => tokenStart
  | .stop => tokenStop
  | .reset => tokenReset
  | .trgmode => tokenTrgmode
  | .intmode => tokenIntmode

theorem eq_token_of_decodeCommand {frame : List Byte} {cmd : Command} (h : decodeCommand frame = some cmd) :
    frame = cmd.token := by
  unfold decodeCommand at h
  split_ifs at h <;> cases h <;> assumption

theorem commandInstr_encodes (c : Config) {frame : List Byte} (tick : Tick) (hframe : frame.length = 9) :
    (commandInstr frame tick).wf c = true ∧ portOf (commandInstr frame tick) = .receive ∧
      encode c (commandInstr frame tick) = frame ++ le32 tick := by
  cases hcmd : decodeCommand frame with
  | none => simp [commandInstr, hcmd, Instr.wf, portOf, encode, hframe]
  | some cmd =>
    obtain rfl := eq_token_of_decodeCommand hcmd
    cases cmd <;> exact ⟨rfl, rfl, rfl⟩

/-- Every line of the receive channel is the command of a frame (R65; log 7). -/
theorem exists_commandInstr {c : Config} {i : Instr} (hwf : i.wf c = true) (hport : portOf i = .receive) :
    ∃ frame tick, frame.length = 9 ∧ i = commandInstr frame tick := by
  cases i with
  | start tick => exact ⟨tokenStart, tick, rfl, rfl⟩
  | stop tick => exact ⟨tokenStop, tick, rfl, rfl⟩
  | reset tick => exact ⟨tokenReset, tick, rfl, rfl⟩
  | trgmode tick => exact ⟨tokenTrgmode, tick, rfl, rfl⟩
  | intmode tick => exact ⟨tokenIntmode, tick, rfl, rfl⟩
  | cmdOther frame tick =>
    have h : frame.length = 9 ∧ decodeCommand frame = none := by simpa [Instr.wf] using hwf
    exact ⟨frame, tick, h.1, by simp [commandInstr, h.2]⟩
  | _ => cases hport

theorem decodeReceive_eq_ok_iff {c : Config} {bs rest : List Byte} {i : Instr} :
    decodeReceive bs = .ok i rest ↔ i.wf c = true ∧ portOf i = .receive ∧ encode c i ++ rest = bs := by
  rw [decodeReceive, decodeFrameTick_eq_ok_iff]
  constructor
  · rintro ⟨frame, tick, hframe, rfl, rfl⟩
    obtain ⟨hwf, hport, henc⟩ := commandInstr_encodes c tick hframe
    exact ⟨hwf, hport, by rw [henc]⟩
  · rintro ⟨hwf, hport, rfl⟩
    obtain ⟨frame, tick, hframe, rfl⟩ := exists_commandInstr hwf hport
    obtain ⟨-, -, henc⟩ := commandInstr_encodes c tick hframe
    exact ⟨frame, tick, hframe, rfl, by rw [henc]⟩

theorem decodeTransmit_eq_ok_iff {c : Config} {bs rest : List Byte} {i : Instr} :
    decodeTransmit bs = .ok i rest ↔ i.wf c = true ∧ portOf i = .transmit ∧ encode c i ++ rest = bs := by
  constructor
  · intro h
    unfold decodeTransmit at h
    split at h
    · cases h
    next ty ops =>
      split_ifs at h with hlen hty hty hty hty <;> cases h <;> subst hty
      all_goals
        exact ⟨decide_eq_true (List.length_take_of_le (by omega)), rfl,
          congrArg (_ :: ·) (List.take_append_drop 20 ops)⟩
  · rintro ⟨hwf, hport, rfl⟩
    cases i with
    | pktAnalog payload | pktEdge payload | pktStart payload | pktBusy payload =>
      have hlen : payload.length = 20 := of_decide_eq_true hwf
      simp [encode, decodeTransmit, List.take_left' hlen, List.drop_left' hlen, hlen]
    | _ => cases hport

/-! ## Every port -/

/-- Decoding reads exactly the encodings of the well-formed lines of a port. -/
theorem decode_eq_ok_iff {c : Config} {p : Port} {bs rest : List Byte} {i : Instr} :
    decode c p bs = .ok i rest ↔ i.wf c = true ∧ carries p i = true ∧ encode c i ++ rest = bs := by
  cases p with
  | component => exact decode_component_eq_ok_iff
  | evt => simp only [carries, decide_eq_true_iff]; exact decodeEvt_eq_ok_iff
  | fifo => simp only [carries, decide_eq_true_iff]; exact decodeFifo_eq_ok_iff
  | encoder => simp only [carries, decide_eq_true_iff]; exact decodeEncoder_eq_ok_iff
  | receive => simp only [carries, decide_eq_true_iff]; exact decodeReceive_eq_ok_iff
  | transmit => simp only [carries, decide_eq_true_iff]; exact decodeTransmit_eq_ok_iff

theorem carries_portOf (i : Instr) : carries (portOf i) i = true := by
  cases i <;> rfl

/-! ## Programs (R70) -/

/-- Every line takes at least one byte. -/
theorem encode_ne_nil {c : Config} {p : Port} {i : Instr} (hwf : i.wf c = true) (hport : carries p i = true) :
    encode c i ≠ [] := by
  intro hnil
  have h := decode_eq_ok_iff.mpr ⟨hwf, hport, congrArg (· ++ []) hnil⟩
  simp [Machine.decode_nil] at h

/-- Enough fuel is a unit for every byte. -/
theorem decodeLines_flatMap_encode {c : Config} {p : Port} {is : List Instr}
    (h : ∀ i ∈ is, i.wf c = true ∧ carries p i = true) {fuel : Nat}
    (hfuel : (is.flatMap (encode c)).length ≤ fuel) : decodeLines c p fuel (is.flatMap (encode c)) = some is := by
  induction is generalizing fuel with
  | nil => cases fuel <;> rfl
  | cons i is ih =>
    rw [List.forall_mem_cons] at h
    obtain ⟨⟨hwf, hport⟩, his⟩ := h
    have hne := encode_ne_nil hwf hport
    have hpos := List.length_pos_iff.mpr hne
    rw [List.flatMap_cons, List.length_append] at hfuel
    rw [List.flatMap_cons]
    obtain ⟨fuel, rfl⟩ : ∃ k, fuel = k + 1 := ⟨fuel - 1, by omega⟩
    rw [decodeLines_cons (List.append_ne_nil_of_left_ne_nil hne _) (decode_eq_ok_iff.mpr ⟨hwf, hport, rfl⟩),
      ih his (by omega), Option.map_some]

end Sys2Proof
end

section
/-! SUPPORT. What the decoder refuses (R66, R67), the command that a received frame is (R65), and a packet that is not
sent. -/

namespace Sys2Proof

/-! ## Reserved and malformed transactions -/

/-- The codes of the block port in use are those below 6 (R55, R67). -/
theorem decode_evt_reserved (c : Config) {b : Byte} (h : 6 ≤ b.toNat) (rest : List Byte) :
    decode c .evt (b :: rest) = .rejected .reservedCode rest := by
  have hne (k : Byte) (hk : k.toNat < 6) : b ≠ k := by
    rintro rfl
    omega
  show decodeEvt c (b :: rest) = _
  simp (disch := decide) only [decodeEvt, hne, if_false]

/-- The codes of the FIFO port in use are those whose operation is below 6 (R56, R66). -/
theorem decode_fifo_reserved (c : Config) {b : Byte} (h : 6 ≤ b.toNat % 128) (rest : List Byte) :
    decode c .fifo (b :: rest) = .rejected .reservedCode rest := by
  have hne (op : BitVec 7) (hop : op.toNat < 6) : b.extractLsb' 0 7 ≠ op := by
    rintro rfl
    simp at hop
    omega
  show decodeFifo c (b :: rest) = _
  simp (disch := decide) only [decodeFifo, hne, if_false]

theorem decode_component_reserved (c : Config) {b : Byte} (hb : 32 ≤ b.toNat) (h : 6 ≤ b.toNat % 128)
    (rest : List Byte) : decode c .component (b :: rest) = .rejected .reservedCode rest := by
  rw [decode_component_of_code c (by omega), decode_fifo_reserved c h]

theorem decode_evt_badPin (c : Config) (t0 t1 t2 t3 : Byte) {b : Byte} (h : 2 ≤ b.toNat) (rest : List Byte) :
    decode c .evt (0x02 :: t0 :: t1 :: t2 :: t3 :: b :: rest) = .rejected .badPin rest := by
  have hne (k : Byte) (hk : k.toNat < 2) : b ≠ k := by
    rintro rfl
    omega
  show decodeEdge (t0 :: t1 :: t2 :: t3 :: b :: rest) = _
  simp (disch := decide) only [decodeEdge, hne, if_false]

theorem decode_evt_badTxOppBits (c : Config) {b : Byte} (h : 4 ≤ b.toNat) (rest : List Byte) :
    decode c .evt (0x04 :: b :: rest) = .rejected .badTxOppBits rest := by
  have hne : b.extractLsb' 2 6 ≠ 0 := by
    intro hzero
    have hb := b.isLt
    have := congrArg BitVec.toNat hzero
    simp [Nat.shiftRight_eq_div_pow] at this
    omega
  exact if_neg hne

end Sys2Proof

namespace Sys2Proof.Machine

/-! ## Commands -/

/-- Receiving a frame does what its command does. -/
theorem exec_cmdRx (frame : List Byte) (tick : Tick) (s : State) :
    exec (.cmdRx frame tick) s = exec (commandInstr frame tick) s := by
  show taken s (commandStep (commandBody frame tick)) = _
  unfold commandBody commandInstr
  cases decodeCommand frame with
  | none => rfl
  | some cmd => cases cmd <;> rfl

/-! ## Packets -/

theorem Taken.txlog {s s1 : State} {payload : List Byte} (h : Taken s payload s1) : s1.txlog = s.txlog := by
  cases h with
  | marker | nothing => rfl
  | slice x n => exact State.setFifo_txlog s x _

/-- The accepted opportunity puts the next packet, and no other, on the channel (R114, R118). -/
theorem State.transmitOpportunity_txlog {s : State} {b : Bool} {pkt : Packet} (h : s.nextPacket b = some pkt) :
    (s.transmitOpportunity b true).txlog = s.txlog ++ [pkt] := by
  have hidle : s.txBusy = false := by
    cases hb : s.txBusy with
    | false => rfl
    | true => simp [State.nextPacket, hb] at h
  rw [State.nextPacket_of_idle hidle] at h
  rcases s.transmitOpportunity_cases b true with ⟨hb, _⟩ | ⟨_, harb, _⟩ | ⟨_, _, _, s1, _, _, htaken, harb, hopp⟩
  · simp [hidle] at hb
  · simp [harb] at h
  · simp only [harb, Option.some.injEq] at h
    subst h
    rw [hopp, ← htaken.txlog]
    rfl

/-- A packet row whose accepted opportunity does not send it is refused (log 8). -/
theorem State.putOnChannel_of_txlog_ne {s : State} {b : Bool} {pkt : Packet}
    (h : (s.transmitOpportunity b true).txlog ≠ s.txlog ++ [pkt]) :
    s.putOnChannel b pkt = s.refuse .packetNotProduced :=
  if_neg fun hnext => h (State.transmitOpportunity_txlog hnext)

end Sys2Proof.Machine
end

section
/-! PROOFS. The obligations of the encoding: decoding and encoding agree, and what is refused. -/

open Sys2Proof Sys2Proof.Machine

/-- Settles O1: a decoder reads exactly the encodings of its port's lines. -/
theorem decodeReadsEveryEncoding : Obligations.DecodeReadsEveryEncoding := fun _ i _ hwf =>
  ⟨carries_portOf i, fun _ hport => decode_eq_ok_iff.mpr ⟨hwf, hport, rfl⟩⟩

/-- Settles O59: line by line; the first byte of an ENCREQ of a low type is no header byte of a component program. -/
theorem programsDecodeToTheirLines : Obligations.ProgramsDecodeToTheirLines := by
  refine ⟨fun c p is h => ⟨rfl, List.flatMap_def, decodeLines_flatMap_encode h le_rfl⟩, ?_⟩
  intro c ty len payload rest hty
  refine decode_component_of_code c ?_ _
  rw [toNat_encHeader_first]
  omega

/-- Settles O2: a decoder reads nothing but the encodings of its port's lines. -/
theorem decodedBytesAreTheEncoding : Obligations.DecodedBytesAreTheEncoding := fun _ _ _ _ _ => decode_eq_ok_iff.mp

/-- Settles O52: each packet row is `putOnChannel` of its packet. -/
theorem packetNotSentIsRefused : Obligations.PacketNotSentIsRefused := by
  intro s t b payload i ty hfault hrow hexec hlog
  rw [exec_of_ok hfault] at hexec
  obtain rfl : s.transmitOpportunity b true = t := Host.Outcome.next.inj hexec
  have hrefused : s.putOnChannel b (ty :: payload) = s.refuse .packetNotProduced :=
    State.putOnChannel_of_txlog_ne hlog
  rw [exec_of_ok hfault]
  refine congrArg Host.Outcome.next (Eq.trans ?_ hrefused)
  simp only [List.mem_cons, Prod.mk.injEq, List.not_mem_nil, or_false] at hrow
  rcases hrow with ⟨rfl, rfl, rfl⟩ | ⟨rfl, rfl, rfl⟩ | ⟨rfl, rfl, rfl⟩ | ⟨rfl, rfl, rfl⟩ <;> rfl

/-- Settles O3: the decoder runs on the five words. -/
theorem spelledOutWordsDecode : Obligations.SpelledOutWordsDecode := by
  refine ⟨?_, ?_, ?_, ?_, ?_⟩ <;> decide

/-- Settles O4: the command of a frame is the row of its token, or the unrecognized command. -/
theorem cmdRxDoesItsFramesCommand : Obligations.CmdRxDoesItsFramesCommand := by
  intro frame tick s
  rw [exec_cmdRx]
  split_ifs with hstart hstop hreset htrgmode hintmode
  case neg =>
    have hnone : decodeCommand frame = none := (if_neg hstart).trans <| (if_neg hstop).trans <|
      (if_neg hreset).trans <| (if_neg htrgmode).trans <| if_neg hintmode
    rw [commandInstr, hnone]
  all_goals subst frame; rfl

/-- Settles O6: the decoder rejects each of the five shapes, and the step of a rejected transaction sets the mark. -/
theorem reservedTransactionsAreRefused : Obligations.ReservedTransactionsAreRefused := by
  intro s b rest segs hfault
  refine ⟨fun hb hs => ?_, fun hb hs => ?_, fun hb hop hs => ?_, fun hb t0 t1 t2 t3 hs => ?_, fun hb hs => ?_⟩
  · exact step_of_rejected hfault hs (decode_evt_reserved _ hb _)
  · exact step_of_rejected hfault hs (decode_fifo_reserved _ hb _)
  · exact step_of_rejected hfault hs (decode_component_reserved _ hb hop _)
  · exact step_of_rejected hfault hs (decode_evt_badPin _ t0 t1 t2 t3 hb _)
  · exact step_of_rejected hfault hs (decode_evt_badTxOppBits _ hb _)

/-- Settles O21: the length is checked before `adc_en`. -/
theorem badChunkIsRefused : Obligations.BadChunkIsRefused := by
  intro s block hfault hlen
  rw [exec_of_ok hfault]
  exact congrArg Host.Outcome.next (if_pos hlen)

end

section
/-! SUPPORT. The requests of the FIFO port in a block without a fault, and a sequence of ENQ and DEQ one request at a
time. -/

namespace Sys2Proof.Machine

variable {s : State} {x : Fifo}

/-! ## ENQ -/

theorem exec_enq (hfault : s.fault = none) (data : List Byte) :
    exec (.enq x data) s = .next ((s.enqueue x data).2.respond (some (.written (s.enqueue x data).1))) :=
  exec_of_ok hfault _

theorem exec_enq_of_le (hfault : s.fault = none) {data : List Byte}
    (hroom : (s.fifo x).count + data.length ≤ s.cap x) :
    exec (.enq x data) s = .next ((s.setFifo x { s.fifo x with
      buf := storeBytes (s.cap x) (s.fifo x).buf (s.fifo x).head data
      head := ((s.fifo x).head + data.length) % s.cap x
      count := (s.fifo x).count + data.length }).respond (some (.written data.length))) := by
  rw [exec_enq hfault, State.enqueue_of_le hroom]

theorem exec_enq_of_gt (hfault : s.fault = none) {data : List Byte}
    (hfull : s.cap x < (s.fifo x).count + data.length) :
    exec (.enq x data) s = .next ((s.raise (.bufferOverflow x data.length (s.fifo x).count)).respond
      (some (.written 0))) := by
  rw [exec_enq hfault, State.enqueue_of_gt hfull]

/-- The part of ENQ's data that the FIFO takes: all of it or nothing (R81). -/
def State.accepted (s : State) (x : Fifo) (data : List Byte) : List Byte :=
  if (s.enqueue x data).1 = data.length then data else []

theorem State.accepted_of_le {data : List Byte} (hroom : (s.fifo x).count + data.length ≤ s.cap x) :
    s.accepted x data = data := by
  rw [State.accepted, State.enqueue_of_le hroom, if_pos rfl]

/-- In a FIFO that holds no more than its capacity, data that does not fit is not empty, so the answer 0 is not its
length. -/
theorem State.accepted_of_gt {data : List Byte} (hcount : (s.fifo x).count ≤ s.cap x)
    (hfull : s.cap x < (s.fifo x).count + data.length) : s.accepted x data = [] := by
  have hne : 0 ≠ data.length := by omega
  rw [State.accepted, State.enqueue_of_gt hfull, if_neg hne]

/-- Any ENQ appends what it accepts to the bytes held (R73, R80). -/
theorem State.enqueue_live_accepted (hok : (s.fifo x).Ok (s.cap x)) (data : List Byte) :
    (s.enqueue x data).2.live x = s.live x ++ s.accepted x data := by
  by_cases hroom : (s.fifo x).count + data.length ≤ s.cap x
  · rw [State.enqueue_live hok hroom, State.accepted_of_le hroom]
  · have hfull : s.cap x < (s.fifo x).count + data.length := Nat.lt_of_not_le hroom
    rw [State.enqueue_of_gt hfull, State.accepted_of_gt hok.countLe hfull, State.raise_live, List.append_nil]

theorem State.enqueue_fault (s : State) (x : Fifo) (data : List Byte) : (s.enqueue x data).2.fault = s.fault :=
  congrArg Control.fault (s.control_enqueue x data)

/-! ## Sequences of ENQ and DEQ -/

/-- A sequence that begins with an ENQ, whose answer is its data's length exactly when it is accepted. -/
theorem fifoRun_enq (hfault : s.fault = none) (data : List Byte) (ops : List (List Byte ⊕ Nat)) :
    fifoRun x (.inl data :: ops) s =
      (fifoRun x ops (bodyOf (.enq x data) s)).map fun r => (s.accepted x data ++ r.1, r.2) := by
  rw [fifoRun, exec_enq hfault]
  simp [bodyOf, State.accepted]

/-- A sequence that begins with a DEQ, which answers the first `n` bytes held. -/
theorem fifoRun_deq (hfault : s.fault = none) (n : Nat) (ops : List (List Byte ⊕ Nat)) :
    fifoRun x (.inr n :: ops) s =
      (fifoRun x ops (bodyOf (.deq x n) s)).map fun r => (r.1, (s.live x).take n ++ r.2.1, r.2.2) := by
  rw [fifoRun, exec_of_ok hfault, ← State.dequeue_fst]
  rfl

theorem fifoRun_order (ops : List (List Byte ⊕ Nat)) (hfault : s.fault = none) (hok : (s.fifo x).Ok (s.cap x)) :
    ∃ acc out t, fifoRun x ops s = some (acc, out, t) ∧ out ++ t.live x = s.live x ++ acc := by
  induction ops generalizing s with
  | nil => exact ⟨[], [], s, rfl, (List.append_nil _).symm⟩
  | cons op ops ih =>
    cases op with
    | inl data =>
      have hfault' : (bodyOf (.enq x data) s).fault = none := (s.enqueue_fault x data).trans hfault
      have hok' := (evolves_bodyOf (i := .enq x data) nofun s).fifos x hok
      have hlive : (bodyOf (.enq x data) s).live x = s.live x ++ s.accepted x data :=
        (State.respond_live _ _ x).trans (State.enqueue_live_accepted hok data)
      obtain ⟨acc, out, t, hrun, horder⟩ := ih hfault' hok'
      refine ⟨s.accepted x data ++ acc, out, t, ?_, ?_⟩
      · rw [fifoRun_enq hfault, hrun, Option.map_some]
      · rw [horder, hlive, List.append_assoc]
    | inr n =>
      have hfault' : (bodyOf (.deq x n) s).fault = none := (s.setFifo_fault x _).trans hfault
      have hok' := (evolves_bodyOf (i := .deq x n) nofun s).fifos x hok
      have hlive : (bodyOf (.deq x n) s).live x = (s.live x).drop n :=
        (State.respond_live _ _ x).trans (s.dequeue_live x n)
      obtain ⟨acc, out, t, hrun, horder⟩ := ih hfault' hok'
      refine ⟨acc, (s.live x).take n ++ out, t, ?_, ?_⟩
      · rw [fifoRun_deq hfault, hrun, Option.map_some]
      · calc (s.live x).take n ++ out ++ t.live x
          _ = (s.live x).take n ++ (s.live x).drop n ++ acc := by
            rw [List.append_assoc, horder, hlive, List.append_assoc]
          _ = s.live x ++ acc := by rw [List.take_append_drop]

end Sys2Proof.Machine
end

section
/-! PROOFS. The obligations of the FIFO port. -/

open Sys2Proof Sys2Proof.Machine

/-- Settles O14: ENQ's loop stores each byte at its index and leaves every other cell. -/
theorem enqStoresEveryByte : Obligations.EnqStoresEveryByte := by
  intro s x data hfault hwf hroom
  refine ⟨storeBytes (s.cap x) (s.fifo x).buf (s.fifo x).head data, exec_enq_of_le hfault hroom, fun i h => ?_,
    fun a h => read_storeBytes_of_ne h⟩
  exact read_storeBytes hwf (by omega) h

/-- Settles O15: an ENQ without room only raises and answers 0, one with room answers its length. -/
theorem enqIsAllOrNothing : Obligations.EnqIsAllOrNothing := by
  intro s x data hfault
  refine ⟨fun hfull => exec_enq_of_gt hfault hfull, ?_⟩
  by_cases hroom : (s.fifo x).count + data.length ≤ s.cap x
  · exact ⟨_, data.length, exec_enq_of_le hfault hroom, rfl, .inr rfl, fun hzero hpos => by omega⟩
  · refine ⟨_, 0, exec_enq_of_gt hfault (by omega), rfl, .inl rfl, fun _ _ => ?_⟩
    rw [State.respond_fifo, State.raise_fifo]

/-- Settles O18, by induction on the requests: an ENQ appends what it accepts, a DEQ answers from the front. -/
theorem fifoOrderLaw : Obligations.FifoOrderLaw := fun _ ops _ hfault hok => fifoRun_order ops hfault hok

/-- Settles O13: the storage that CLR leaves lists no cell. -/
theorem clrEmptiesTheFifo : Obligations.ClrEmptiesTheFifo := by
  intro s x hfault
  refine ⟨[], exec_of_ok hfault _, fun _ => rfl, ?_⟩
  cases x <;> rfl

/-- Settles O16: DEQ's loop reads one cell per byte. -/
theorem deqTakesFromTheTail : Obligations.DeqTakesFromTheTail := by
  intro s x n hfault
  exact ⟨loadBytes (s.cap x) (s.fifo x).buf (s.fifo x).tail (min n (s.fifo x).count), exec_of_ok hfault _,
    length_loadBytes _ _ _ _, fun _ h => getElem_loadBytes _ _ _ _ h⟩

/-- Settles O17: the queries read the count, and a number has one bit more than its logarithm. -/
theorem queriesAnswerFromCount : Obligations.QueriesAnswerFromCount := by
  intro s x hfault
  refine ⟨exec_of_ok hfault _, exec_of_ok hfault _, exec_of_ok hfault _, fun hcount => ?_, ?_, ?_, ?_⟩
  · exact lt_of_le_of_lt hcount Nat.lt_log2_self
  all_goals cases x <;> rfl

end

section
/-! SUPPORT. The producers of an armed block without a fault: with room, without room, the burst-timer request, and the
edge record. -/

namespace Sys2Proof.Machine

/-! ## A producer's enqueue -/

theorem State.produce_of_le {s : State} {x : Fifo} {data : List Byte} (hdata : data ≠ [])
    (hroom : (s.fifo x).count + data.length ≤ s.cap x) : s.produce x data = s.setFifo x { s.fifo x with
      buf := storeBytes (s.cap x) (s.fifo x).buf (s.fifo x).head data
      head := ((s.fifo x).head + data.length) % s.cap x
      count := (s.fifo x).count + data.length } := by
  have hwritten : data.length ≠ 0 := mt List.length_eq_zero_iff.mp hdata
  rw [State.produce, State.enqueue_of_le hroom, if_neg hwritten]

theorem State.produce_of_gt {s : State} {x : Fifo} {data : List Byte}
    (hfull : s.cap x < (s.fifo x).count + data.length) :
    s.produce x data = (s.raise (.bufferOverflow x data.length (s.fifo x).count)).countDrop x := by
  rw [State.produce, State.enqueue_of_gt hfull, if_pos rfl]

/-! ## ADC_DONE -/

theorem ne_nil_of_length_eq_analogChunk {c : Config} {block : List Byte} (h : block.length = c.analogChunk) :
    block ≠ [] :=
  List.ne_nil_of_length_eq_add_one h

theorem exec_adcDone_of_armed {s : State} {block : List Byte} (hfault : s.fault = none) (harmed : s.adcEn = true)
    (hlen : block.length = s.cfg.analogChunk) : exec (.adcDone block) s = .next (s.produce .A block) := by
  rw [exec_of_ok hfault, bodyOf, adcDoneBody, if_neg (not_not_intro hlen), if_pos harmed]

/-! ## EDGE -/

theorem exec_edge_of_armed {s : State} (hfault : s.fault = none) (harmed : s.edgeEn = true) (tick : Tick) (pin : Bool) :
    exec (.edge tick pin) s = .next (startBurst (s.produce .E (edgeRecord tick pin))) := by
  rw [exec_of_ok hfault, bodyOf, edgeBody, if_pos harmed]

/-- The timer request touches `burst` and `caplog` only (R85, D46). -/
theorem startBurst_eq (s : State) : startBurst s = { s with
    burst := if s.cfgMode = .triggered ∧ s.burst = .armed then .running else s.burst
    caplog := s.caplog ++
      (if s.cfgMode = .triggered ∧ s.burst = .armed then [.startTimer s.cfg.burstTimerId] else []) } := by
  by_cases hfirst : s.cfgMode = .triggered ∧ s.burst = .armed
  · simp only [startBurst, if_pos hfirst, State.emit]
  · simp only [startBurst, if_neg hfirst, List.append_nil]

/-! ## The edge record -/

theorem edgeRecord_ne_nil (tick : Tick) (pin : Bool) : edgeRecord tick pin ≠ [] :=
  List.cons_ne_nil _ _

/-- Four bytes read as a tick are their shifted values combined (R86). -/
theorem ofLe32_eq_or (b0 b1 b2 b3 : Byte) : ofLe32 b0 b1 b2 b3 =
    b0.setWidth 32 ||| (b1.setWidth 32 <<< 8) ||| (b2.setWidth 32 <<< 16) ||| (b3.setWidth 32 <<< 24) := by
  have or_reverse (a b c d : Tick) : d ||| c ||| b ||| a = a ||| b ||| c ||| d := by ac_rfl
  rw [← BitVec.setWidth_eq (ofLe32 b0 b1 b2 b3), ofLe32,
    BitVec.setWidth_append_append_append_eq_shiftLeft_setWidth_or]
  exact or_reverse _ _ _ _

end Sys2Proof.Machine
end

section
/-! PROOFS. The obligations of the producers. -/

open Sys2Proof Sys2Proof.Machine

/-- Settles O19: an accepted producer's enqueue is an ENQ, whose loop appends to the bytes held. -/
theorem adcDoneAppendsItsChunk : Obligations.AdcDoneAppendsItsChunk := by
  intro s block hfault hok harmed hlen hroom
  rw [← hlen] at hroom ⊢
  refine ⟨storeBytes (s.cap .A) s.fifoA.buf s.fifoA.head block, ?_, loadBytes_store hok hroom,
    fun a h => read_storeBytes_of_ne h⟩
  rw [exec_adcDone_of_armed hfault harmed hlen,
    State.produce_of_le (x := .A) (ne_nil_of_length_eq_analogChunk hlen) hroom]
  rfl

/-- Settles O22: the record is appended as ENQ appends its data, then the timer request is made. -/
theorem edgeAppendsItsRecord : Obligations.EdgeAppendsItsRecord := by
  intro s tick pin hfault hok harmed hroom
  refine ⟨storeBytes (s.cap .E) s.fifoE.buf s.fifoE.head (edgeRecord tick pin), ?_, loadBytes_store hok hroom,
    fun a h => read_storeBytes_of_ne h⟩
  rw [exec_edge_of_armed hfault harmed, State.produce_of_le (x := .E) (edgeRecord_ne_nil tick pin) hroom, startBurst_eq]
  rfl

/-- Settles O24: reading a tick's four bytes gives it back, and reading is combining the shifted bytes. -/
theorem edgeRecordDecodesBack : Obligations.EdgeRecordDecodesBack := by
  intro tick pin
  have htick := ofLe32_le32 tick
  refine ⟨_, _, _, _, _, rfl, ?_, rfl, ?_, by decide⟩
  · rw [← ofLe32_eq_or, htick]
  · rw [readEdgeRecord, htick]

/-- Settles O20: the rejected chunk is counted and raised. -/
theorem adcDoneWithoutRoomDrops : Obligations.AdcDoneWithoutRoomDrops := by
  intro s block hfault harmed hlen hfull
  rw [← hlen] at hfull ⊢
  rw [exec_adcDone_of_armed hfault harmed hlen, State.produce_of_gt hfull]
  rfl

/-- Settles O23: the rejected record is counted and raised, then the timer request is made. -/
theorem edgeWithoutRoomDrops : Obligations.EdgeWithoutRoomDrops := by
  intro s tick pin hfault harmed hfull
  rw [exec_edge_of_armed hfault harmed, State.produce_of_gt (data := edgeRecord tick pin) hfull, startBurst_eq]
  rfl

end

section
/-! SUPPORT. The mode controller: what each command's body leaves, and the settings that only commands write. -/

namespace Sys2Proof.Machine

/-! ## The bodies of the commands -/

/-- Clearing keeps the build and leaves nothing else of a FIFO, so both are as after INIT (R71, R93, R95). -/
theorem clearBuffers_eq (s : State) :
    clearBuffers s = { s with fifoA := FifoState.empty, fifoE := FifoState.empty } := rfl

theorem doStop_eq (s : State) : doStop s = { s with
    run := .stopped, adcEn := false, edgeEn := false, burst := .off
    caplog := s.caplog ++ [.stopAnalogAcquisition, .stopTimer s.cfg.burstTimerId] } :=
  congrArg (fun log => { doStop s with caplog := log }) (List.append_assoc s.caplog _ _)

theorem doReset_eq (s : State) : doReset s = { s with
    fifoA := FifoState.empty, fifoE := FifoState.empty
    run := .stopped, adcEn := false, edgeEn := false, burst := .off, markerPending := false, markerTick := 0
    caplog := s.caplog ++ [.stopAnalogAcquisition, .stopTimer s.cfg.burstTimerId] } := by
  rw [doReset, doStop_eq, clearBuffers_eq]

theorem doStart_of_triggered {s : State} (h : s.cfgMode = .triggered) (tick : Tick) : doStart tick s = { s with
    fifoA := FifoState.empty, fifoE := FifoState.empty
    run := .running, adcEn := true, edgeEn := true, burst := .armed, markerPending := true, markerTick := tick } := by
  simp only [doStart, clearBuffers_eq, h]

theorem doStart_of_continuous {s : State} (h : s.cfgMode = .continuous) (tick : Tick) : doStart tick s = { s with
    fifoA := FifoState.empty, fifoE := FifoState.empty
    run := .running, adcEn := true, edgeEn := true, markerPending := false
    caplog := s.caplog ++ [.startAnalogAcquisition] } := by
  simp only [doStart, clearBuffers_eq, h, State.emit]

theorem doStart_of_none {s : State} (h : s.cfgMode = .none) (tick : Tick) : doStart tick s = { s with
    fifoA := FifoState.empty, fifoE := FifoState.empty, markerPending := false } := by
  simp only [doStart, clearBuffers_eq, h]

/-! ## The step of a command -/

/-- A command does its body, then the re-arm follows the body's requests (R92). -/
theorem exec_command {i : Instr} {body : State → State} (hi : bodyOf i = commandStep body) {s t : State}
    (hfault : s.fault = none) {requests : List CapRequest} (hbody : body { s with rxArmed := false } = t)
    (hlog : t.caplog = s.caplog ++ requests) :
    exec i s = .next { t with caplog := s.caplog ++ (requests ++ [.receiveBytes 9]), rxArmed := true } := by
  rw [exec_of_ok hfault, hi, commandStep, hbody, State.emit, hlog, List.append_assoc]

/-- Where START leads: without a style it starts nothing (R93, R99). -/
def startMode : Run × CfgMode → Run × CfgMode
  | (run, .none) => (run, .none)
  | (_, .continuous) => (.running, .continuous)
  | (_, .triggered) => (.running, .triggered)

theorem doStart_mode (tick : Tick) (s : State) :
    ((doStart tick s).run, (doStart tick s).cfgMode) = startMode (s.run, s.cfgMode) := by
  cases h : s.cfgMode with
  | none => simp only [doStart_of_none h, h, startMode]
  | continuous => simp only [doStart_of_continuous h, h, startMode]
  | triggered => simp only [doStart_of_triggered h, h, startMode]

/-! ## The settings -/

/-- What only commands and RST write (R100, R135). -/
structure Settings where
  run : Run
  cfgMode : CfgMode
  adcEn : Bool
  edgeEn : Bool
  markerTick : Tick
  rxArmed : Bool

def State.settings (s : State) : Settings where
  run := s.run
  cfgMode := s.cfgMode
  adcEn := s.adcEn
  edgeEn := s.edgeEn
  markerTick := s.markerTick
  rxArmed := s.rxArmed

theorem State.settings_setFifo (s : State) (x : Fifo) (f : FifoState) : (s.setFifo x f).settings = s.settings := by
  cases x <;> rfl

theorem State.settings_enqueue (s : State) (x : Fifo) (data : List Byte) :
    (s.enqueue x data).2.settings = s.settings := by
  unfold State.enqueue
  split
  · rfl
  · exact s.settings_setFifo x _

theorem State.settings_produce (s : State) (x : Fifo) (data : List Byte) :
    (s.produce x data).settings = s.settings := by
  unfold State.produce
  split
  · exact (State.settings_setFifo _ x _).trans (s.settings_enqueue x data)
  · exact s.settings_enqueue x data

theorem State.settings_send (s : State) (pkt : Packet) (linkOk : Bool) :
    (s.send pkt linkOk).settings = s.settings := by
  cases linkOk <;> rfl

theorem Taken.settings {s s1 : State} {payload : List Byte} (h : Taken s payload s1) : s1.settings = s.settings := by
  cases h with
  | marker | nothing => rfl
  | slice x n => exact s.settings_setFifo x _

theorem State.settings_transmitOpportunity (s : State) (b l : Bool) :
    (s.transmitOpportunity b l).settings = s.settings := by
  rcases s.transmitOpportunity_cases b l with ⟨_, h⟩ | ⟨_, _, h⟩ | ⟨_, _, _, _, _, _, htaken, _, h⟩ <;> rw [h]
  · rfl
  · exact (State.settings_send _ _ l).trans htaken.settings

theorem State.settings_putOnChannel (s : State) (b : Bool) (pkt : Packet) :
    (s.putOnChannel b pkt).settings = s.settings := by
  rcases s.putOnChannel_cases b pkt with h | h <;> rw [h]
  · exact s.settings_transmitOpportunity b true
  · rfl

theorem settings_adcDoneBody (block : List Byte) (s : State) : (adcDoneBody block s).settings = s.settings := by
  unfold adcDoneBody
  split
  · rfl
  · split
    · exact s.settings_produce .A block
    · rfl

theorem settings_edgeBody (tick : Tick) (pin : Bool) (s : State) : (edgeBody tick pin s).settings = s.settings := by
  unfold edgeBody
  split
  · rw [startBurst_eq]
    exact s.settings_produce .E _
  · rfl

theorem settings_txDoneBody (s : State) : (txDoneBody s).settings = s.settings := by
  unfold txDoneBody
  split <;> rfl

theorem settings_encodeBody (ty : Byte) (len : BitVec 5) (payload : List Byte) (s : State) :
    (encodeBody ty len payload s).settings = s.settings := by
  unfold encodeBody
  split <;> rfl

/-- A transaction that is neither RST nor a command writes no setting. -/
theorem settings_bodyOf {i : Instr} (hcmd : isCommand i = false) (hrst : i ≠ .rst) (s : State) :
    (bodyOf i s).settings = s.settings := by
  cases i with
  | rst => exact absurd rfl hrst
  | adcDone block => exact settings_adcDoneBody block s
  | edge tick pin => exact settings_edgeBody tick pin s
  | txOpp adcBusy linkOk => exact s.settings_transmitOpportunity adcBusy linkOk
  | txDone => exact settings_txDoneBody s
  | clr x => exact s.settings_setFifo x _
  | enq x data => exact s.settings_enqueue x data
  | deq x n => exact s.settings_setFifo x _
  | empty _ | full _ | len _ => rfl
  | pktAnalog _ | pktEdge _ | pktStart _ | pktBusy _ => exact s.settings_putOnChannel _ _
  | encodeReq ty len payload => exact settings_encodeBody ty len payload s
  | cmdRx _ _ | start _ | stop _ | reset _ | trgmode _ | intmode _ | cmdOther _ _ => cases hcmd

end Sys2Proof.Machine
end

section
/-! PROOFS. The obligations of the mode controller. -/

open Sys2Proof Sys2Proof.Machine

/-- Settles O33: each column of the table is what its command makes of the row's pair. -/
theorem modeTransitionTable : Obligations.ModeTransitionTable := by
  intro row hrow
  have hcolumns : row.2 = (startMode row.1, (.stopped, row.1.2), (.stopped, row.1.2), (.stopped, .triggered),
      (.stopped, .continuous), row.1) := by
    fin_cases hrow <;> rfl
  intro s tick frame hfault _ hmode
  rw [hcolumns, ← hmode]
  exact ⟨⟨_, exec_of_ok hfault _, doStart_mode tick _⟩, ⟨_, exec_of_ok hfault _, rfl⟩, ⟨_, exec_of_ok hfault _, rfl⟩,
    ⟨_, exec_of_ok hfault _, rfl⟩, ⟨_, exec_of_ok hfault _, rfl⟩, ⟨_, exec_of_ok hfault _, rfl⟩⟩

/-- Settles O34: a faulted block takes nothing, and no other transaction's body writes a setting. -/
theorem onlyCommandsWriteTheMode : Obligations.OnlyCommandsWriteTheMode := by
  intro i s t h hcmd hi
  have hsettings : t.settings = s.settings := by
    rcases exec_cases h with ⟨hrst, _⟩ | ⟨_, _, rfl⟩ | ⟨_, _, rfl⟩
    · exact absurd hrst hi
    · rfl
    · exact settings_bodyOf hcmd hi s
  exact Settings.mk.inj hsettings

/-- Settles O26: START's body in the triggered style, then the re-arm. -/
theorem startTriggeredArmsTheRun : Obligations.StartTriggeredArmsTheRun := by
  intro s tick hfault hmode
  have hbody := doStart_of_triggered (s := { s with rxArmed := false }) hmode tick
  exact exec_command (i := .start tick) rfl hfault hbody (List.append_nil _).symm

/-- Settles O27: START's body requests the conversion, then the re-arm. -/
theorem startContinuousStartsTheConverter : Obligations.StartContinuousStartsTheConverter := by
  intro s tick hfault hmode
  have hbody := doStart_of_continuous (s := { s with rxArmed := false }) hmode tick
  exact exec_command (i := .start tick) rfl hfault hbody rfl

/-- Settles O28: without a style START's body only clears, then the re-arm. -/
theorem startWithoutStyleOnlyClears : Obligations.StartWithoutStyleOnlyClears := by
  intro s tick hfault hmode
  have hbody := doStart_of_none (s := { s with rxArmed := false }) hmode tick
  exact exec_command (i := .start tick) rfl hfault hbody (List.append_nil _).symm

/-- Settles O29: STOP's two requests, then the re-arm. -/
theorem stopLeavesTheBuffers : Obligations.StopLeavesTheBuffers := by
  intro s tick hfault
  have hbody := doStop_eq { s with rxArmed := false }
  exact exec_command (i := .stop tick) rfl hfault hbody rfl

/-- Settles O30: TRGMODE and INTMODE are a RESET in the new style. -/
theorem resetTrgmodeIntmodeClear : Obligations.ResetTrgmodeIntmodeClear := by
  intro s tick hfault
  have hbody (mode : CfgMode) := doReset_eq { s with rxArmed := false, cfgMode := mode }
  exact ⟨exec_command (i := .reset tick) rfl hfault (hbody s.cfgMode) rfl,
    exec_command (i := .trgmode tick) rfl hfault (hbody .triggered) rfl,
    exec_command (i := .intmode tick) rfl hfault (hbody .continuous) rfl⟩

/-- Settles O31: a frame that is no token is the unrecognized command, whose body only raises. -/
theorem unrecognizedFrameOnlyRearms : Obligations.UnrecognizedFrameOnlyRearms := by
  intro s frame tick hfault hnone
  rw [exec_cmdRx, commandInstr, hnone]
  exact ⟨exec_of_ok hfault _, exec_of_ok hfault _⟩

/-- Settles O32: the re-arm follows every frame's command. -/
theorem cmdRxAlwaysRearms : Obligations.CmdRxAlwaysRearms := by
  intro s frame tick hfault
  exact ⟨_, exec_of_ok hfault _, rfl, List.getLast?_concat⟩

end

section
/-! SUPPORT. The encoder port, what a receiver reads back, the choice among the sequencer's sources, and that nothing
but the encoder port faults. -/

namespace Sys2Proof.Machine

/-! ## ENCODE (R105) -/

theorem isPacketType_iff {ty : Byte} :
    isPacketType ty = true ↔ ty = 0xA0 ∨ ty = 0xB0 ∨ ty = 0xC0 ∨ ty = 0xD0 := by
  simp [isPacketType, or_assoc]

theorem encodePacket_of_gt {c : Config} {ty : Byte} {len : Nat} {payload : List Byte}
    (hty : isPacketType ty = true) (hlen : 20 < len) : encodePacket c ty len payload = .tooLarge len := by
  rw [encodePacket, if_pos hty, if_pos hlen]

/-- The type is checked before the length (R134). -/
theorem encodePacket_of_badType {c : Config} {ty : Byte} (hty : isPacketType ty ≠ true) (len : Nat)
    (payload : List Byte) : encodePacket c ty len payload = .badType := if_neg hty

theorem encodeBody_of_le {ty : Byte} {len : BitVec 5} (hty : isPacketType ty = true) (hlen : len.toNat ≤ 20)
    (payload : List Byte) (s : State) : encodeBody ty len payload s =
      s.respond (some (.packet (buildPacket s.cfg.fill ty (payload.take len.toNat)))) := by
  simp only [encodeBody, encodePacket_of_le hty hlen]

theorem encodeBody_of_gt {ty : Byte} {len : BitVec 5} (hty : isPacketType ty = true) (hlen : 20 < len.toNat)
    (payload : List Byte) (s : State) : encodeBody ty len payload s = (s.faultWith len.toNat).respond none := by
  simp only [encodeBody, encodePacket_of_gt hty hlen]

theorem encodeBody_of_badType {ty : Byte} (hty : isPacketType ty ≠ true) (len : BitVec 5) (payload : List Byte)
    (s : State) : encodeBody ty len payload s = (s.refuse .badPacketType).respond none := by
  simp only [encodeBody, encodePacket_of_badType hty]

/-! ## Packets as they are sent and read -/

theorem paddedPacket_of_length {c : Config} {ty : Byte} {payload : List Byte} {n : Nat} (h : payload.length = n) :
    paddedPacket c ty payload = ty :: (payload ++ List.replicate (20 - n) c.fill) := by
  subst h
  rfl

/-- A full payload has no padding. -/
theorem paddedPacket_of_full {c : Config} {ty : Byte} {payload : List Byte} (h : payload.length = 20) :
    paddedPacket c ty payload = ty :: payload := by
  simp [paddedPacket_of_length h]

/-- The records of an edge packet are read back in order, whatever pads them (R86, R113). -/
theorem readRecords_flatMap_edgeRecord (records : List (Tick × Bool)) (pad : List Byte) :
    readRecords records.length ((records.flatMap fun r => edgeRecord r.1 r.2) ++ pad) =
      records.map fun r => (r.1, bitByte r.2) := by
  induction records with
  | nil => rfl
  | cons r records ih =>
    simp only [List.length_cons, List.flatMap_cons, List.map_cons, List.append_assoc]
    exact congrArg₂ (fun tick rest => (tick, bitByte r.2) :: rest) (ofLe32_le32 r.1) ih

/-! ## The sources of the sequencer, in the words of the claims (R114, R116, R117, R121)

The conditions of a source leave one of the cases of `State.arbitrate_cases`. -/

theorem buildPacket_eq_paddedPacket (c : Config) (ty : Byte) (payload : List Byte) :
    buildPacket c.fill ty payload = paddedPacket c ty payload := rfl

/-- A DEQ of at least what is held takes all of it (R74). -/
theorem State.dequeue_of_ge (s : State) (x : Fifo) {n : Nat} (h : (s.fifo x).count ≤ n) :
    (s.dequeue x n).2 = s.setFifo x ((s.fifo x).without (s.cap x) (s.fifo x).count) := by
  rw [State.dequeue_snd, Nat.min_eq_right h]
  rfl

section Sources

variable {s : State} (b : Bool)

theorem State.arbitrate_of_marker (hm : s.markerPending = true) : s.arbitrate b =
    some (.packet (paddedPacket s.cfg 0xC0 (le32 s.markerTick)), { s with markerPending := false }) := by
  simpa [hm, buildPacket_eq_paddedPacket] using s.arbitrate_cases b

variable (hm : s.markerPending = false)
include hm

theorem State.arbitrate_of_edgeSlice (he : s.cfg.slice ≤ s.fifoE.count) :
    s.arbitrate b = some (.packet (paddedPacket s.cfg 0xB0 ((s.live .E).take s.cfg.slice)),
      s.setFifo .E (s.fifoE.without (s.cap .E) s.cfg.slice)) := by
  simpa [hm, he, Nat.not_lt.mpr he, s.dequeue_of_le .E he, buildPacket_eq_paddedPacket] using s.arbitrate_cases b

variable (he : s.fifoE.count < s.cfg.slice)
include he

theorem State.arbitrate_of_analogSlice (ha : 20 ≤ s.fifoA.count) :
    s.arbitrate b = some (.packet (paddedPacket s.cfg 0xA0 ((s.live .A).take 20)),
      s.setFifo .A (s.fifoA.without (s.cap .A) 20)) := by
  simpa [hm, he, Nat.not_le.mpr he, ha, Nat.not_lt.mpr ha, s.dequeue_of_le .A ha, buildPacket_eq_paddedPacket]
    using s.arbitrate_cases b

variable (ha : s.fifoA.count < 20)
include ha

theorem State.arbitrate_of_analogPartial (hbusy : s.cfg.busyPayload = .analogPartial) :
    s.arbitrate true = some (.packet (paddedPacket s.cfg 0xD0 (s.live .A)),
      s.setFifo .A (s.fifoA.without (s.cap .A) s.fifoA.count)) := by
  simpa [hm, he, Nat.not_le.mpr he, ha, Nat.not_le.mpr ha, hbusy, s.dequeue_of_ge .A ha.le,
    buildPacket_eq_paddedPacket] using s.arbitrate_cases true

theorem State.arbitrate_of_nothing (hbusy : s.cfg.busyPayload = .nothing) :
    s.arbitrate true = some (.packet (paddedPacket s.cfg 0xD0 []), s) := by
  simpa [hm, he, Nat.not_le.mpr he, ha, Nat.not_le.mpr ha, hbusy, buildPacket_eq_paddedPacket]
    using s.arbitrate_cases true

end Sources

/-! ## The hand-off of the arbitration's packet -/

section HandOff

variable {s s1 : State} {b : Bool} {pkt : Packet} (hidle : s.txBusy = false)
  (harb : s.arbitrate b = some (.packet pkt, s1))
include hidle harb

theorem State.transmitOpportunity_of_arbitrate (linkOk : Bool) :
    s.transmitOpportunity b linkOk = s1.afterHandOff pkt linkOk := by
  rw [← State.send_eq]
  simp [State.transmitOpportunity, hidle, harb]

/-- The row of the packet that the sequencer sends is its accepted hand-off (log 8). -/
theorem State.putOnChannel_of_arbitrate : s.putOnChannel b pkt = s1.afterAccepted pkt := by
  have hnext : s.nextPacket b = some pkt := by rw [State.nextPacket_of_idle hidle, harb]
  rw [State.putOnChannel, if_pos hnext]
  exact State.transmitOpportunity_of_arbitrate hidle harb true

end HandOff

/-! ## Faults and refusals -/

theorem State.send_fault (s : State) (pkt : Packet) (linkOk : Bool) : (s.send pkt linkOk).fault = s.fault := by
  cases linkOk <;> rfl

theorem State.send_refused (s : State) (pkt : Packet) (linkOk : Bool) :
    (s.send pkt linkOk).refused = s.refused := by
  cases linkOk <;> rfl

theorem Taken.fault {s s1 : State} {payload : List Byte} (h : Taken s payload s1) : s1.fault = s.fault := by
  cases h with
  | marker | nothing => rfl
  | slice x n => exact s.setFifo_fault x _

theorem Taken.refused {s s1 : State} {payload : List Byte} (h : Taken s payload s1) : s1.refused = s.refused := by
  cases h with
  | marker | nothing => rfl
  | slice x n => exact s.setFifo_refused x _

/-- The encoder calls of the sequencer are in range (R112). -/
theorem State.transmitOpportunity_fault_refused (s : State) (b l : Bool) :
    (s.transmitOpportunity b l).fault = s.fault ∧ (s.transmitOpportunity b l).refused = s.refused := by
  rcases s.transmitOpportunity_cases b l with ⟨_, h⟩ | ⟨_, _, h⟩ | ⟨_, _, _, _, _, _, htaken, _, h⟩ <;> rw [h]
  · exact ⟨rfl, rfl⟩
  · exact ⟨rfl, rfl⟩
  · exact ⟨(State.send_fault _ _ l).trans htaken.fault, (State.send_refused _ _ l).trans htaken.refused⟩

theorem State.putOnChannel_fault (s : State) (b : Bool) (pkt : Packet) : (s.putOnChannel b pkt).fault = s.fault := by
  rcases s.putOnChannel_cases b pkt with h | h <;> rw [h]
  · exact (s.transmitOpportunity_fault_refused b true).1
  · rfl

theorem State.produce_fault (s : State) (x : Fifo) (data : List Byte) : (s.produce x data).fault = s.fault :=
  congrArg Control.fault (s.control_produce x data)

theorem fault_adcDoneBody (block : List Byte) (s : State) : (adcDoneBody block s).fault = s.fault := by
  unfold adcDoneBody
  split
  · rfl
  · split
    · exact s.produce_fault .A block
    · rfl

theorem fault_edgeBody (tick : Tick) (pin : Bool) (s : State) : (edgeBody tick pin s).fault = s.fault := by
  unfold edgeBody
  split
  · rw [startBurst_eq]
    exact s.produce_fault .E _
  · rfl

theorem fault_txDoneBody (s : State) : (txDoneBody s).fault = s.fault := by
  unfold txDoneBody
  split <;> rfl

theorem fault_doStart (tick : Tick) (s : State) : (doStart tick s).fault = s.fault := by
  cases h : s.cfgMode with
  | none => rw [doStart_of_none h]
  | continuous => rw [doStart_of_continuous h]
  | triggered => rw [doStart_of_triggered h]

theorem fault_commandBody (frame : List Byte) (tick : Tick) (s : State) :
    (commandBody frame tick s).fault = s.fault := by
  unfold commandBody
  split
  case h_1 => exact fault_doStart tick s
  all_goals rfl

/-- No transaction but RST and ENCODE writes the fault. -/
theorem fault_bodyOf {i : Instr} (hrst : i ≠ .rst) (henc : ∀ ty len payload, i ≠ .encodeReq ty len payload)
    (s : State) : (bodyOf i s).fault = s.fault := by
  cases i with
  | rst => exact absurd rfl hrst
  | adcDone block => exact fault_adcDoneBody block s
  | edge tick pin => exact fault_edgeBody tick pin s
  | cmdRx frame tick => exact fault_commandBody frame tick _
  | txOpp adcBusy linkOk => exact (s.transmitOpportunity_fault_refused adcBusy linkOk).1
  | txDone => exact fault_txDoneBody s
  | clr x => exact s.setFifo_fault x _
  | enq x data => exact s.enqueue_fault x data
  | deq x n => exact s.setFifo_fault x _
  | start tick => exact fault_doStart tick _
  | empty _ | full _ | len _ | stop _ | reset _ | trgmode _ | intmode _ | cmdOther _ _ => rfl
  | pktAnalog _ | pktEdge _ | pktStart _ | pktBusy _ => exact s.putOnChannel_fault _ _
  | encodeReq ty len payload => exact absurd rfl (henc ty len payload)

/-- The one way ENCODE faults (R105, R129). -/
theorem fault_encodeBody_of_ne {ty : Byte} {len : BitVec 5} {payload : List Byte} {s : State}
    (h : (encodeBody ty len payload s).fault ≠ s.fault) : isPacketType ty = true ∧ 20 < len.toNat ∧
      (encodeBody ty len payload s).fault = some (.payloadTooLarge len.toNat) := by
  by_cases hty : isPacketType ty = true
  · rcases Nat.lt_or_ge 20 len.toNat with hlen | hlen
    · exact ⟨hty, hlen, by rw [encodeBody_of_gt hty hlen]; rfl⟩
    · exact absurd (by rw [encodeBody_of_le hty hlen]; rfl) h
  · exact absurd (by rw [encodeBody_of_badType hty]; rfl) h

end Sys2Proof.Machine
end

section
/-! PROOFS. The obligations of the frame encoder, of the packets it builds, and of where a fault can come from. -/

open Sys2Proof Sys2Proof.Machine

/-- Settles O8: RST leaves no fault, and ENCODE's is of a length above 20. -/
theorem onlyTheEncoderPortFaults : Obligations.OnlyTheEncoderPortFaults := by
  intro i s t h hs ht
  rcases exec_cases h with ⟨_, rfl⟩ | ⟨_, hfault, _⟩ | ⟨hrst, _, rfl⟩
  · exact absurd rfl ht
  · exact absurd hs hfault
  · by_cases henc : ∃ ty len payload, i = .encodeReq ty len payload
    · obtain ⟨ty, len, payload, rfl⟩ := henc
      exact ⟨ty, len, payload, rfl, fault_encodeBody_of_ne (hs ▸ ht)⟩
    · have hkeeps := fault_bodyOf hrst (fun ty len payload hi => henc ⟨ty, len, payload, hi⟩) s
      exact absurd (hkeeps.trans hs) ht

/-- Settles O38: the type byte chooses the reading; `FILL` follows what is read. -/
theorem receiverReadsWhatWasSent : Obligations.ReceiverReadsWhatWasSent := by
  refine fun c => ⟨fun _ => rfl, fun tick => ?_, fun records hlen => ?_, fun _ => rfl⟩
  · exact congrArg (fun t => some (Received.startMarker t)) (ofLe32_le32 tick)
  · have hread := readRecords_flatMap_edgeRecord records
    rw [hlen] at hread
    exact congrArg (fun rs => some (Received.edges rs)) (hread _)

/-- Settles O41: the edge slice is the arbitration's source, whatever FIFO `A` holds. -/
theorem edgeSliceGoesNext : Obligations.EdgeSliceGoesNext := by
  intro s b linkOk hfault hidle hm he
  rw [exec_of_ok hfault]
  have harb := State.arbitrate_of_edgeSlice b hm he
  exact congrArg Host.Outcome.next (State.transmitOpportunity_of_arbitrate hidle harb linkOk)

/-- Settles O42: the analog slice is the arbitration's source, and fills its packet. -/
theorem analogSliceGoesThird : Obligations.AnalogSliceGoesThird := by
  intro s b linkOk hfault hidle hm he ha
  have hfull : ((s.live .A).take 20).length = 20 := by simpa using ha
  rw [exec_of_ok hfault, ← paddedPacket_of_full (c := s.cfg) hfull]
  have harb := State.arbitrate_of_analogSlice b hm he ha
  exact congrArg Host.Outcome.next (State.transmitOpportunity_of_arbitrate hidle harb linkOk)

/-- Settles O48: a faulted block takes nothing, and the sequencer's encoder calls are in range. -/
theorem opportunityNeverFaults : Obligations.OpportunityNeverFaults := by
  intro s t b l h
  rcases exec_cases h with ⟨hrst, _⟩ | ⟨_, _, rfl⟩ | ⟨_, _, rfl⟩
  · cases hrst
  · exact ⟨rfl, rfl⟩
  · exact s.transmitOpportunity_fault_refused b l

/-- Settles O51: each row's payload is what the arbitration's packet carries. -/
theorem packetRowsSendTheirPacket : Obligations.PacketRowsSendTheirPacket := by
  intro s payload hfault hidle
  have hsend {b : Bool} {pkt : Packet} {s1 : State} (harb : s.arbitrate b = some (.packet pkt, s1)) :=
    congrArg (Host.Outcome.next (φ := Fault) (ρ := Refusal)) (State.putOnChannel_of_arbitrate hidle harb)
  refine ⟨fun hm hp => ?_, fun hm he hp => ?_, fun hm he ha hp => ?_, fun hm he ha hbusy hp => ?_,
    fun hm he ha hbusy hp => ?_⟩ <;> rw [exec_of_ok hfault] <;> subst hp
  · exact hsend (State.arbitrate_of_marker false hm)
  · have hlen : ((s.live .E).take s.cfg.slice).length = s.cfg.slice := by simpa using he
    have harb := State.arbitrate_of_edgeSlice false hm he
    rw [paddedPacket_of_length hlen] at harb
    exact hsend harb
  · have hfull : ((s.live .A).take 20).length = 20 := by simpa using ha
    have harb := State.arbitrate_of_analogSlice false hm he ha
    rw [paddedPacket_of_full hfull] at harb
    exact hsend harb
  · have harb := State.arbitrate_of_analogPartial hm he ha hbusy
    rw [paddedPacket_of_length (s.length_live .A)] at harb
    exact hsend harb
  · exact hsend (State.arbitrate_of_nothing hm he ha hbusy)

/-- Settles O35: a type and a length in range are answered with the packet. -/
theorem encodePadsWithFill : Obligations.EncodePadsWithFill := by
  intro s ty len payload hfault hty hlen hpayload
  have htake : (payload.take len.toNat).length = len.toNat := by simpa [hpayload] using hlen
  refine ⟨buildPacket s.cfg.fill ty (payload.take len.toNat), ?_, ?_, length_buildPacket _ _ _ (htake.trans_le hlen)⟩
  · rw [exec_of_ok hfault]
    exact congrArg Host.Outcome.next (encodeBody_of_le (isPacketType_iff.mpr hty) hlen payload s)
  · exact paddedPacket_of_length htake

/-- Settles O36: the type is checked first. -/
theorem encodeRefusesOtherTypes : Obligations.EncodeRefusesOtherTypes := by
  intro s ty len payload hfault hA hB hC hD
  have hty : isPacketType ty ≠ true := by simpa only [ne_eq, isPacketType_iff, not_or] using ⟨hA, hB, hC, hD⟩
  rw [exec_of_ok hfault]
  exact congrArg Host.Outcome.next (encodeBody_of_badType hty len payload s)

/-- Settles O37: of a known type, a length out of range is the fault. -/
theorem encodeTooLargeFaults : Obligations.EncodeTooLargeFaults := by
  intro s ty len payload hfault hty hlen
  rw [exec_of_ok hfault]
  exact congrArg Host.Outcome.next (encodeBody_of_gt (isPacketType_iff.mpr hty) hlen payload s)

end

section
/-! SUPPORT. The transmit opportunity: what a hand-off leaves, the settings it neither reads nor writes, and the analog
packets that empty FIFO `A` in a continuous run. -/

namespace Sys2Proof

theorem Config.slice_le (c : Config) : c.slice ≤ 20 := by
  unfold Config.slice
  cases c.edgeSlice <;> decide

theorem Config.slice_pos (c : Config) : 0 < c.slice := by
  unfold Config.slice
  cases c.edgeSlice <;> decide

end Sys2Proof

namespace Sys2Proof.Machine

/-! ## The hand-off (R114, R118) -/

/-- The opportunity of an idle link is the hand-off of what the arbitration chose. -/
theorem exec_txOpp_of_arbitrate {s s1 : State} {b : Bool} {pkt : Packet} (hfault : s.fault = none)
    (hidle : s.txBusy = false) (harb : s.arbitrate b = some (.packet pkt, s1)) (linkOk : Bool) :
    exec (.txOpp b linkOk) s = .next (s1.afterHandOff pkt linkOk) := by
  rw [exec_of_ok hfault]
  exact congrArg Host.Outcome.next (State.transmitOpportunity_of_arbitrate hidle harb linkOk)

theorem State.afterHandOff_caplog (s : State) (pkt : Packet) (linkOk : Bool) :
    (s.afterHandOff pkt linkOk).caplog = s.caplog ++ [.transmitBytes pkt 21] := by
  cases linkOk <;> rfl

theorem State.afterHandOff_txlog (s : State) (pkt : Packet) (linkOk : Bool) :
    (s.afterHandOff pkt linkOk).txlog = s.txlog ++ (if linkOk then [pkt] else []) := by
  cases linkOk with
  | false => exact (List.append_nil _).symm
  | true => rfl

/-- A lost packet's bytes are taken as an accepted one's are, and the rest of the acceptance does not happen (R118). -/
theorem Taken.afterLost {s s1 : State} {payload : List Byte} (h : Taken s payload s1) (hidle : s.txBusy = false)
    (pkt : Packet) : s1.afterLost pkt = { s1.afterAccepted pkt with
      txBusy := false, txPkt := s.txPkt, txlog := s.txlog, errlog := s.errlog ++ [.linkBusy .lost] } := by
  cases h with
  | marker | nothing => simp only [State.afterLost, State.afterAccepted, hidle]
  | slice x n => simp [State.dequeue_snd, State.afterLost, State.afterAccepted, hidle]

/-- Without a marker, a full slice or a conversion there is nothing to send (R114). -/
theorem State.arbitrate_of_noSource {s : State} (hm : s.markerPending = false) (he : s.fifoE.count < s.cfg.slice)
    (ha : s.fifoA.count < 20) : s.arbitrate false = none := by
  simpa [hm, he, Nat.not_le.mpr he, ha, Nat.not_le.mpr ha] using s.arbitrate_cases false

theorem State.transmitOpportunity_of_noPacket {s : State} {b : Bool} (hidle : s.txBusy = false)
    (harb : s.arbitrate b = none) (linkOk : Bool) : s.transmitOpportunity b linkOk = s := by
  simp [State.transmitOpportunity, hidle, harb]

/-! ## What the sequencer neither reads nor writes (R120) -/

/-- The state with the mode controller's own elements replaced. -/
def State.withMode (s : State) (r : Run) (m : CfgMode) (a e : Bool) (u : Burst) : State :=
  { s with run := r, cfgMode := m, adcEn := a, edgeEn := e, burst := u }

section Mode

variable (s : State) (r : Run) (m : CfgMode) (a e : Bool) (u : Burst)

/-- The arbitration makes the same choice, and takes the same bytes, in every mode. -/
theorem State.withMode_arbitrate (b : Bool) : (s.withMode r m a e u).arbitrate b =
    (s.arbitrate b).map fun choice => (choice.1, choice.2.withMode r m a e u) := by
  rcases s.arbitrate_cases b with ⟨hm, _⟩ | ⟨hm, he, _⟩ | ⟨hm, he, ha, _⟩ | ⟨hm, he, ha, rfl, hbusy, _⟩ |
    ⟨hm, he, ha, rfl, hbusy, _⟩ | ⟨hm, he, ha, rfl, _⟩
  · rw [State.arbitrate_of_marker b hm]
    exact State.arbitrate_of_marker (s := s.withMode r m a e u) b hm
  · rw [State.arbitrate_of_edgeSlice b hm he]
    exact State.arbitrate_of_edgeSlice (s := s.withMode r m a e u) b hm he
  · rw [State.arbitrate_of_analogSlice b hm he ha]
    exact State.arbitrate_of_analogSlice (s := s.withMode r m a e u) b hm he ha
  · rw [State.arbitrate_of_analogPartial hm he ha hbusy]
    exact State.arbitrate_of_analogPartial (s := s.withMode r m a e u) hm he ha hbusy
  · rw [State.arbitrate_of_nothing hm he ha hbusy]
    exact State.arbitrate_of_nothing (s := s.withMode r m a e u) hm he ha hbusy
  · rw [State.arbitrate_of_noSource hm he ha]
    exact State.arbitrate_of_noSource (s := s.withMode r m a e u) hm he ha

theorem State.withMode_afterHandOff (pkt : Packet) (linkOk : Bool) :
    (s.withMode r m a e u).afterHandOff pkt linkOk = (s.afterHandOff pkt linkOk).withMode r m a e u := by
  cases linkOk <;> rfl

theorem State.withMode_transmitOpportunity (b linkOk : Bool) :
    (s.withMode r m a e u).transmitOpportunity b linkOk = (s.transmitOpportunity b linkOk).withMode r m a e u := by
  have harb := s.withMode_arbitrate r m a e u b
  rcases s.transmitOpportunity_cases b linkOk with ⟨hbusy, h⟩ | ⟨hidle, hnone, h⟩ | ⟨hidle, _, _, _, _, _, _, hsome, _⟩
  · rw [h]
    exact if_pos hbusy
  · rw [hnone] at harb
    rw [h]
    exact State.transmitOpportunity_of_noPacket (s := s.withMode r m a e u) hidle harb linkOk
  · rw [hsome] at harb
    rw [State.transmitOpportunity_of_arbitrate hidle hsome, ← State.withMode_afterHandOff]
    exact State.transmitOpportunity_of_arbitrate (s := s.withMode r m a e u) hidle harb linkOk

end Mode

/-! ## TX_DONE and sequences of transactions -/

/-- The notification ends the packet in flight (R122). -/
theorem exec_txDone_of_busy {s : State} (hfault : s.fault = none) (hbusy : s.txBusy = true) :
    exec .txDone s = .next { s with txBusy := false } := by
  rw [exec_of_ok hfault, bodyOf, txDoneBody, if_pos hbusy]

/-- A notification with nothing in flight is ignored (R122, R133). -/
theorem exec_txDone_of_idle {s : State} (hfault : s.fault = none) (hidle : s.txBusy = false) :
    exec .txDone s = .next s := by
  rw [exec_of_ok hfault, bodyOf, txDoneBody, if_neg (Bool.not_eq_true _ ▸ hidle)]

theorem runAll_cons {i : Instr} {s t : State} (h : exec i s = .next t) (is : List Instr) :
    runAll (i :: is) s = runAll is t := by
  rw [runAll, h]

/-! ## Emptying FIFO `A` by analog packets (R114, R125) -/

/-- A block whose only source for the link is FIFO `A`, which holds `m` full slices. -/
structure State.Draining (s : State) (m : Nat) : Prop where
  noFault : s.fault = none
  idle : s.txBusy = false
  noMarker : s.markerPending = false
  noEdges : s.fifoE.count = 0
  slices : s.fifoA.count = 20 * m

/-- What `sendOne` leaves of such a block: a slice has gone from FIFO `A` to the link, which is idle again. -/
def State.afterSlice (s : State) : State :=
  { State.afterAccepted (s.setFifo .A (s.fifoA.without (s.cap .A) 20)) (0xA0 :: (s.live .A).take 20) with
    txBusy := false }

theorem State.afterSlice_live {s : State} (h : 20 ≤ s.fifoA.count) : s.afterSlice.live .A = (s.live .A).drop 20 := by
  rw [← s.dequeue_live .A 20, s.dequeue_of_le .A h]
  rfl

namespace State.Draining

variable {s : State} {m : Nat}

theorem afterSlice (hs : s.Draining (m + 1)) : s.afterSlice.Draining m where
  noFault := hs.noFault
  idle := rfl
  noMarker := hs.noMarker
  noEdges := hs.noEdges
  slices := by
    show s.fifoA.count - 20 = 20 * m
    have := hs.slices
    omega

theorem fullSlice (hs : s.Draining (m + 1)) : 20 ≤ s.fifoA.count := by
  have := hs.slices
  omega

theorem length_slice (hs : s.Draining (m + 1)) : ((s.live .A).take 20).length = 20 := by
  simpa using hs.fullSlice

theorem runAll_sendOne (hs : s.Draining (m + 1)) (b : Bool) (is : List Instr) :
    runAll (sendOne b ++ is) s = runAll is s.afterSlice := by
  have he : s.fifoE.count < s.cfg.slice := hs.noEdges ▸ s.cfg.slice_pos
  have harb := State.arbitrate_of_analogSlice b hs.noMarker he hs.fullSlice
  rw [paddedPacket_of_full hs.length_slice] at harb
  have hopp := exec_txOpp_of_arbitrate hs.noFault hs.idle harb true
  refine (runAll_cons hopp _).trans (runAll_cons ?_ is)
  exact exec_txDone_of_busy hs.noFault rfl

/-- Every opportunity of such a block sends the next slice, until FIFO `A` is empty. -/
theorem runAll_flatMap_sendOne {s : State} (busy : List Bool) (hs : s.Draining busy.length) :
    ∃ (t : State) (payloads : List (List Byte)), runAll (busy.flatMap sendOne) s = some t ∧
      payloads.length = busy.length ∧ (∀ p ∈ payloads, p.length = 20) ∧ payloads.flatten = s.live .A ∧
      t.txlog = s.txlog ++ payloads.map (0xA0 :: ·) ∧ t.live .A = [] ∧ t.txBusy = false ∧ t.errlog = s.errlog := by
  induction busy generalizing s with
  | nil =>
    have hempty : s.live .A = [] := State.live_eq_nil_of_count hs.slices
    exact ⟨s, [], rfl, rfl, nofun, hempty.symm, (List.append_nil _).symm, hempty, hs.idle, rfl⟩
  | cons b busy ih =>
    obtain ⟨t, payloads, hrun, hlen, hall, hflat, htxlog, hlive, hidle, herr⟩ := ih hs.afterSlice
    refine ⟨t, (s.live .A).take 20 :: payloads, ?_, congrArg (· + 1) hlen,
      List.forall_mem_cons.mpr ⟨hs.length_slice, hall⟩, ?_, ?_, hlive, hidle, herr⟩
    · exact (hs.runAll_sendOne b _).trans hrun
    · rw [List.flatten_cons, hflat, State.afterSlice_live hs.fullSlice, List.take_append_drop]
    · exact htxlog.trans (List.append_assoc _ [_] _)

end State.Draining

/-! ## A continuous run begins (R93, R97) -/

/-- The state that INTMODE and START leave. -/
def State.afterContStart (s : State) : State :=
  { s with
    fifoA := FifoState.empty, fifoE := FifoState.empty
    run := .running, cfgMode := .continuous, adcEn := true, edgeEn := true, burst := .off
    markerPending := false, markerTick := 0
    caplog := s.caplog ++ [.stopAnalogAcquisition, .stopTimer s.cfg.burstTimerId, .receiveBytes 9] ++
      [.startAnalogAcquisition, .receiveBytes 9]
    rxArmed := true }

theorem runAll_contStart {s : State} (hfault : s.fault = none) (tick : Tick) (is : List Instr) :
    runAll (contStart tick ++ is) s = runAll is s.afterContStart := by
  have hintmode := (resetTrgmodeIntmodeClear s tick hfault).2.2
  rw [← show commandInstr tokenIntmode tick = .intmode tick from rfl, ← exec_cmdRx] at hintmode
  refine (runAll_cons hintmode _).trans (runAll_cons ?_ is)
  rw [exec_cmdRx]
  exact startContinuousStartsTheConverter _ tick hfault rfl

/-- The first chunk of the run fills FIFO `A` with whole slices. -/
theorem exec_adcDone_afterContStart {s : State} {block : List Byte} {m : Nat} (hfault : s.fault = none)
    (hidle : s.txBusy = false) (hchunk : s.cfg.analogChunk = 20 * m) (hcap : s.cfg.analogChunk ≤ s.cap .A)
    (hlen : block.length = s.cfg.analogChunk) :
    ∃ t, exec (.adcDone block) s.afterContStart = .next t ∧ t.Draining m ∧ t.live .A = block ∧
      t.txlog = s.txlog ∧ t.errlog = s.errlog := by
  have hok : FifoState.empty.Ok (s.cap .A) := FifoState.ok_empty (s.cap_pos .A)
  have hroom : 0 + s.cfg.analogChunk ≤ s.cap .A := by omega
  obtain ⟨buf, hadc, hload, _⟩ := adcDoneAppendsItsChunk s.afterContStart block hfault hok rfl hlen hroom
  have hnone : s.afterContStart.live .A = [] := State.live_eq_nil_of_count rfl
  rw [hnone, List.nil_append] at hload
  exact ⟨_, hadc, ⟨hfault, hidle, rfl, rfl, (Nat.zero_add _).trans hchunk⟩, hload, rfl, rfl⟩

end Sys2Proof.Machine
end

section
/-! PROOFS. The obligations of the transmit sequencer. -/

open Sys2Proof Sys2Proof.Machine

/-- Settles O40: the marker is the arbitration's first source. -/
theorem markerGoesFirst : Obligations.MarkerGoesFirst := by
  intro s b linkOk hfault hidle hm
  exact exec_txOpp_of_arbitrate hfault hidle (State.arbitrate_of_marker b hm) linkOk

/-- Settles O43: with no full slice the conversion in progress decides, and `BUSY_PAYLOAD` says what is taken. -/
theorem heartbeatCarriesThePartialSlice : Obligations.HeartbeatCarriesThePartialSlice := by
  intro s linkOk hfault hidle hm he ha
  refine ⟨fun hbusy => ?_, fun hbusy => ?_⟩
  · exact exec_txOpp_of_arbitrate hfault hidle (State.arbitrate_of_analogPartial hm he ha hbusy) linkOk
  · exact exec_txOpp_of_arbitrate hfault hidle (State.arbitrate_of_nothing hm he ha hbusy) linkOk

/-- Settles O44: an edge slice is at most 20 bytes, so FIFO `E` holds one and goes before FIFO `A`. -/
theorem edgePriority : Obligations.EdgePriority := by
  intro s b linkOk hfault hidle hm he _
  have hslice : s.cfg.slice ≤ s.fifoE.count := s.cfg.slice_le.trans he
  have hlen : ((s.live .E).take s.cfg.slice).length = s.cfg.slice := by simpa using hslice
  have hopp := edgeSliceGoesNext s b linkOk hfault hidle hm hslice
  rw [paddedPacket_of_length hlen] at hopp
  refine ⟨_, _, hopp, State.afterHandOff_caplog _ _ linkOk, ?_, State.afterHandOff_txlog _ _ linkOk⟩
  rw [List.length_append, hlen, List.length_replicate, Nat.add_sub_of_le s.cfg.slice_le]

/-- Settles O45: an empty FIFO `A` leaves nothing to carry in either build. -/
theorem heartbeatLaw : Obligations.HeartbeatLaw := by
  intro s linkOk hfault hidle hm ha he
  have hslice : s.fifoE.count < s.cfg.slice := he ▸ s.cfg.slice_pos
  have hpartial : s.fifoA.count < 20 := ha ▸ Nat.succ_pos 19
  obtain ⟨hanalog, hnothing⟩ := heartbeatCarriesThePartialSlice s linkOk hfault hidle hm hslice hpartial
  cases hbusy : s.cfg.busyPayload with
  | analogPartial =>
    have hopp := hanalog hbusy
    rw [State.live_eq_nil_of_count (x := .A) ha] at hopp
    exact ⟨_, hopp, State.afterHandOff_caplog _ _ linkOk, State.afterHandOff_txlog _ _ linkOk⟩
  | nothing => exact ⟨_, hnothing hbusy, State.afterHandOff_caplog _ _ linkOk, State.afterHandOff_txlog _ _ linkOk⟩

/-- Settles O46: the link's answer is looked at only after the packet's bytes are taken. -/
theorem rejectedHandOffIsLost : Obligations.RejectedHandOffIsLost := by
  intro s t b hfault hidle h hsent
  have hopp : s.transmitOpportunity b true = t := Host.Outcome.next.inj ((exec_of_ok hfault _).symm.trans h)
  rcases s.transmitOpportunity_cases b true with ⟨hbusy, _⟩ | ⟨_, _, hsame⟩ | ⟨_, _, _, _, _, _, htaken, harb, _⟩
  · exact absurd hbusy (Bool.eq_false_iff.mp hidle)
  · rw [← hopp, hsame] at hsent
    exact absurd hsent (Bool.eq_false_iff.mp hidle)
  · rw [State.transmitOpportunity_of_arbitrate hidle harb] at hopp
    subst hopp
    rw [exec_txOpp_of_arbitrate hfault hidle harb]
    exact congrArg Host.Outcome.next (htaken.afterLost hidle _)

/-- Settles O49: a faulted block takes nothing, and the opportunity commutes with every change of the mode. -/
theorem opportunityIgnoresTheMode : Obligations.OpportunityIgnoresTheMode := by
  intro s t b linkOk r m a e u h
  show exec _ (s.withMode r m a e u) = .next (t.withMode r m a e u)
  rcases exec_cases h with ⟨hrst, _⟩ | ⟨_, hfault, rfl⟩ | ⟨_, hfault, rfl⟩
  · cases hrst
  · exact faultedBlockTakesNoTransaction _ (t.withMode r m a e u) hfault nofun
  · rw [exec_of_ok (s := s.withMode r m a e u) hfault]
    exact congrArg Host.Outcome.next (s.withMode_transmitOpportunity r m a e u b linkOk)

/-- Settles O58: INTMODE and START leave empty FIFOs and an armed converter, the chunk makes `m` slices of FIFO `A`, and
each opportunity sends one. -/
theorem endToEndStream : Obligations.EndToEndStream := by
  intro s tick block busy hfault hidle hchunk hcap hlen
  obtain ⟨s1, hadc, hdraining, hlive, htxlog, herr⟩ := exec_adcDone_afterContStart hfault hidle hchunk hcap hlen
  obtain ⟨t, payloads, hrun, hdrained⟩ := hdraining.runAll_flatMap_sendOne busy
  rw [hlive, htxlog, herr] at hdrained
  refine ⟨t, payloads, ?_, hdrained⟩
  rw [List.append_assoc, runAll_contStart hfault]
  exact (runAll_cons hadc _).trans hrun

/-- Settles O39: the packet in flight is looked at first. -/
theorem opportunityWhileBusyIsDeferred : Obligations.OpportunityWhileBusyIsDeferred := by
  intro s b linkOk hfault hbusy
  rw [exec_of_ok hfault]
  exact congrArg Host.Outcome.next (if_pos hbusy)

/-- Settles O47: `tx_busy` says whether there is a packet to end. -/
theorem txDoneEndsThePacket : Obligations.TxDoneEndsThePacket := fun _ hfault =>
  ⟨exec_txDone_of_busy hfault, exec_txDone_of_idle hfault, rfl⟩

end

section
/-! SUPPORT. The legal requests that a block without a fault takes and discards: a disarmed producer's event, and an
opportunity with nothing to send. -/

namespace Sys2Proof.Machine

/-- A chunk of the right length is ignored by a disarmed converter (R83, R90, R133). -/
theorem exec_adcDone_of_disarmed {s : State} {block : List Byte} (hfault : s.fault = none) (hdisarmed : s.adcEn = false)
    (hlen : block.length = s.cfg.analogChunk) : exec (.adcDone block) s = .next s := by
  rw [exec_of_ok hfault, bodyOf, adcDoneBody, if_neg (not_not_intro hlen), if_neg (Bool.eq_false_iff.mp hdisarmed)]

/-- An edge is ignored by a disarmed producer, with no request to the burst timer (R85, R90, R133). -/
theorem exec_edge_of_disarmed {s : State} (hfault : s.fault = none) (hdisarmed : s.edgeEn = false) (tick : Tick)
    (pin : Bool) : exec (.edge tick pin) s = .next s := by
  rw [exec_of_ok hfault, bodyOf, edgeBody, if_neg (Bool.eq_false_iff.mp hdisarmed)]

/-- An opportunity of an idle link that the arbitration finds no packet for is ignored (R114, R133). -/
theorem exec_txOpp_of_noPacket {s : State} {b : Bool} (hfault : s.fault = none) (hidle : s.txBusy = false)
    (harb : s.arbitrate b = none) (linkOk : Bool) : exec (.txOpp b linkOk) s = .next s := by
  rw [exec_of_ok hfault]
  exact congrArg Host.Outcome.next (State.transmitOpportunity_of_noPacket hidle harb linkOk)

end Sys2Proof.Machine
end

section
/-! PROOFS. The obligations of the events and errors. -/

open Sys2Proof Sys2Proof.Machine

/-- Settles O25: each ignored event's body keeps the state, and an unrecognized frame is a command that raises. -/
theorem ignoredEventsChangeNothing : Obligations.IgnoredEventsChangeNothing := by
  intro s hfault
  refine ⟨fun block => exec_adcDone_of_disarmed hfault, fun tick pin hdisarmed => ?_, exec_txDone_of_idle hfault,
    fun linkOk hidle hmarker hedges hanalog => ?_, fun frame tick hnone => ?_⟩
  · exact exec_edge_of_disarmed hfault hdisarmed tick pin
  · have harb := State.arbitrate_of_noSource hmarker hedges hanalog
    exact exec_txOpp_of_noPacket hfault hidle harb linkOk
  · obtain ⟨_, hcmdRx⟩ := unrecognizedFrameOnlyRearms s frame tick hfault hnone
    exact ⟨_, hcmdRx, rfl, rfl⟩

/-- Settles O60: the codes are read off event by event. -/
theorem raiseAppendsTheTablesEntry : Obligations.RaiseAppendsTheTablesEntry := by
  intro s e
  refine ⟨rfl, ?_, rfl, rfl⟩
  cases e <;> rfl

end

section
/-! SUPPORT. The values that a reset leaves (R150, R151), and the packet register while a packet is in flight (R158). -/

namespace Sys2Proof.Machine

/-! ## Reset -/

theorem State.fifo_reset (x : Fifo) : State.reset.fifo x = FifoState.empty := by
  cases x <;> rfl

theorem State.fifo_powerOn (s : State) (x : Fifo) : s.powerOn.fifo x = FifoState.empty := by
  cases x <;> rfl

theorem State.status_powerOn (s : State) : s.powerOn.status = 0x0200 :=
  calc s.powerOn.status
    _ = State.reset.status := rfl
    _ = 0x0200 := rfl

theorem State.cell_of_empty {s : State} {x : Fifo} (h : s.fifo x = FifoState.empty) (a : Nat) : s.cell x a = 0x00 := by
  rw [State.cell, h]
  rfl

theorem FifoState.isFull_empty {cap : Nat} (h : 0 < cap) : FifoState.empty.isFull cap = false :=
  decide_eq_false h.ne

/-- The state after reset is a power-on but for `tx_pkt`, whose 21 zero bytes are log 4's choice. -/
theorem State.Inv.reset : State.reset.Inv :=
  { State.Inv.powerOn State.reset with
    txPktLen := rfl
    inFlight := nofun }

/-! ## The channel -/

/-- The packet register and what the link has accepted (R29, R34). -/
structure Channel where
  txBusy : Bool
  txPkt : Packet
  txlog : List Packet

def Control.channel (c : Control) : Channel where
  txBusy := c.txBusy
  txPkt := c.txPkt
  txlog := c.txlog

def State.channel (s : State) : Channel := s.control.channel

theorem State.channel_of_control {s t : State} (h : t.control = s.control) : t.channel = s.channel :=
  congrArg Control.channel h

theorem channel_adcDoneBody (block : List Byte) (s : State) : (adcDoneBody block s).channel = s.channel := by
  unfold adcDoneBody
  split
  · rfl
  · split
    · exact State.channel_of_control (s.control_produce .A block)
    · rfl

theorem channel_startBurst (s : State) : (startBurst s).channel = s.channel := by
  rw [startBurst_eq]
  rfl

theorem channel_edgeBody (tick : Tick) (pin : Bool) (s : State) : (edgeBody tick pin s).channel = s.channel := by
  unfold edgeBody
  split
  · exact (channel_startBurst _).trans (State.channel_of_control (s.control_produce .E _))
  · rfl

theorem channel_encodeBody (ty : Byte) (len : BitVec 5) (payload : List Byte) (s : State) :
    (encodeBody ty len payload s).channel = s.channel := by
  unfold encodeBody
  split <;> rfl

theorem channel_doStop (s : State) : (doStop s).channel = s.channel := by
  rw [doStop_eq]
  rfl

/-- RESET keeps the style; TRGMODE and INTMODE are a RESET in a new one (R95, R96, R97). -/
theorem channel_doReset_cfgMode (s : State) (mode : CfgMode) :
    (doReset { s with cfgMode := mode }).channel = s.channel := by
  rw [doReset_eq]
  rfl

theorem channel_doStart (tick : Tick) (s : State) : (doStart tick s).channel = s.channel := by
  cases h : s.cfgMode with
  | none => rw [doStart_of_none h]; rfl
  | continuous => rw [doStart_of_continuous h]; rfl
  | triggered => rw [doStart_of_triggered h]; rfl

theorem channel_commandBody (frame : List Byte) (tick : Tick) (s : State) :
    (commandBody frame tick s).channel = s.channel := by
  unfold commandBody
  split
  · exact channel_doStart tick s
  · exact channel_doStop s
  · exact channel_doReset_cfgMode s s.cfgMode
  · exact channel_doReset_cfgMode s .triggered
  · exact channel_doReset_cfgMode s .continuous
  · rfl

theorem channel_commandStep {body : State → State} (h : ∀ s : State, (body s).channel = s.channel) (s : State) :
    (commandStep body s).channel = s.channel := h { s with rxArmed := false }

section InFlight

variable {s : State} (hbusy : s.txBusy = true)
include hbusy

theorem State.transmitOpportunity_of_busy (b linkOk : Bool) :
    s.transmitOpportunity b linkOk = s.raise (.linkBusy .deferred) := if_pos hbusy

theorem State.putOnChannel_of_busy (b : Bool) (pkt : Packet) :
    s.putOnChannel b pkt = s.refuse .packetNotProduced := by
  have hnext : s.nextPacket b = none := if_pos hbusy
  rw [State.putOnChannel, hnext, if_neg nofun]

theorem State.channel_transmitOpportunity (b linkOk : Bool) :
    (s.transmitOpportunity b linkOk).channel = s.channel := by
  rw [State.transmitOpportunity_of_busy hbusy]
  rfl

theorem State.channel_putOnChannel (b : Bool) (pkt : Packet) : (s.putOnChannel b pkt).channel = s.channel := by
  rw [State.putOnChannel_of_busy hbusy]
  rfl

/-- While a packet is in flight no transaction but RST and TX_DONE writes the channel (R158). -/
theorem channel_bodyOf {i : Instr} (hrst : i ≠ .rst) (hdone : i ≠ .txDone) : (bodyOf i s).channel = s.channel := by
  cases i with
  | rst => exact absurd rfl hrst
  | txDone => exact absurd rfl hdone
  | adcDone block => exact channel_adcDoneBody block s
  | edge tick pin => exact channel_edgeBody tick pin s
  | cmdRx frame tick => exact channel_commandStep (channel_commandBody frame tick) s
  | txOpp adcBusy linkOk => exact State.channel_transmitOpportunity hbusy adcBusy linkOk
  | clr x => exact State.channel_of_control (s.control_setFifo x _)
  | enq x data => exact State.channel_of_control (s.control_enqueue x data)
  | deq x n => exact State.channel_of_control (s.control_setFifo x _)
  | start tick => exact channel_commandStep (channel_doStart tick) s
  | stop _ => exact channel_commandStep channel_doStop s
  | reset _ => exact channel_commandStep (fun s => channel_doReset_cfgMode s s.cfgMode) s
  | trgmode _ => exact channel_commandStep (channel_doReset_cfgMode · .triggered) s
  | intmode _ => exact channel_commandStep (channel_doReset_cfgMode · .continuous) s
  | cmdOther _ _ => exact channel_commandStep (fun _ => rfl) s
  | empty _ | full _ | len _ => rfl
  | pktAnalog _ | pktEdge _ | pktStart _ | pktBusy _ => exact State.channel_putOnChannel hbusy _ _
  | encodeReq ty len payload => exact channel_encodeBody ty len payload s

end InFlight

end Sys2Proof.Machine
end

section
/-! PROOFS. The obligations of reset and of a packet in flight. -/

open Sys2Proof Sys2Proof.Machine

/-- Settles O50: TX_DONE writes `tx_busy` only, and every other transaction keeps the whole channel; an opportunity is
deferred before it makes a request. -/
theorem packetInFlightIsHeld : Obligations.PacketInFlightIsHeld := by
  intro i s t h hbusy hrst
  rcases exec_cases h with ⟨hi, _⟩ | ⟨_, _, rfl⟩ | ⟨_, hfault, rfl⟩
  · exact absurd hi hrst
  · exact ⟨rfl, rfl, fun _ => hbusy, fun _ _ _ => rfl⟩
  · by_cases hdone : i = .txDone
    · subst hdone
      rw [exec_txDone_of_busy hfault hbusy] at h
      rw [← Host.Outcome.next.inj h]
      exact ⟨rfl, rfl, absurd rfl, nofun⟩
    · obtain ⟨htxBusy, htxPkt, htxlog⟩ := Channel.mk.inj (channel_bodyOf hbusy hrst hdone)
      refine ⟨htxPkt, htxlog, fun _ => htxBusy.trans hbusy, fun adcBusy linkOk hopp => ?_⟩
      subst hopp
      have hdeferred : bodyOf (.txOpp adcBusy linkOk) s = s.raise (.linkBusy .deferred) :=
        State.transmitOpportunity_of_busy hbusy adcBusy linkOk
      rw [hdeferred, State.raise_caplog]

/-- Settles O11: both FIFOs are as after INIT, and the other elements are read off `State.reset`. -/
theorem resetLeavesTheStatedValues : Obligations.ResetLeavesTheStatedValues := by
  refine ⟨fun x => ?_, rfl, rfl, rfl, rfl, rfl, rfl, rfl, rfl, rfl, rfl, rfl, rfl, rfl, rfl, rfl⟩
  have hempty := State.fifo_reset x
  have hcell := State.cell_of_empty hempty
  rw [hempty]
  exact ⟨rfl, rfl, rfl, rfl, hcell⟩

/-- Settles O12: RST looks at no fault, and a FIFO as after INIT is not full, since a build's capacity is at least 1. -/
theorem rstStartsANewRun : Obligations.RstStartsANewRun := by
  intro s
  refine ⟨s.powerOn, rfl, fun x => ?_, rfl, rfl, rfl, rfl, rfl, rfl, rfl, rfl, (State.Inv.powerOn s).txPktLen, rfl, rfl,
    rfl, rfl, rfl, rfl, s.status_powerOn, rfl, rfl⟩
  have hempty := s.fifo_powerOn x
  have hcell := State.cell_of_empty hempty
  rw [hempty]
  exact ⟨rfl, rfl, rfl, rfl, hcell, rfl, FifoState.isFull_empty (s.powerOn.cap_pos x)⟩

/-- Settles O56: the base case of the invariant that every step keeps. -/
theorem resetMeetsTheInvariant : Obligations.ResetMeetsTheInvariant := State.Inv.reset

end
